-- ==== Sys2Proof/Word.lean ====
section
/-! DEFINITION. The widths of the frame codec block: bytes, 16-bit checksums and register values, 32-bit transaction words. -/

namespace Sys2Proof

/-- A byte, 8 bits (00_scope.md section 6). -/
abbrev Byte := BitVec 8

/-- A checksum, or the value on the register data path, 16 bits (00_scope.md R5). -/
abbrev Half := BitVec 16

/-- One encoded host transaction, 32 bits (30_encoding.md R66). -/
abbrev Word := BitVec 32

end Sys2Proof
end

