-- ==== Sys2Proof/Config.lean ====
section
/-! DEFINITION. The parameters of the block that 00_scope.md R5 marks as arguments of a model. The values this block takes are `Machine.fcb` in Machine/Params.lean; the machine that takes them as an argument is in Machine/Parameters.lean. -/

namespace Sys2Proof

/-- The rows of 00_scope.md R5 marked *argument*. -/
structure Config where
  /-- `CRC_POLY_R`: the generator, bit-reversed, for least-significant-bit-first processing. -/
  crcPolyR : Half
  /-- `CRC_INIT`: the accumulator before the first byte. -/
  crcInit : Half
  /-- `TRAILER_LOW_FIRST`: the trailer is checksum bits 7:0 first, bits 15:8 second. -/
  trailerLowFirst : Bool
  /-- `SYNC_RESET`: reset value of `SYNC_VAL`. -/
  syncReset : Byte
  /-- `ADDR_RESET`: reset value of `ADDR_VAL`. -/
  addrReset : Byte
  /-- `MIN_FRAME`: the minimum frame size. -/
  minFrame : Nat
  deriving DecidableEq, Repr

/-- The values 92_eei_decisions.md D12 admits for `MIN_FRAME`: 5 or 6. -/
def Config.minFrameAdmitted (p : Config) : Bool := p.minFrame == 5 || p.minFrame == 6

end Sys2Proof
end

