-- ==== Sys2Proof/Syntax.lean ====
section
/-! DEFINITION. The names of the block (registers, buffer spaces, commands, errors), its inputs, and `Instr`: one constructor per row of spec/opcode_table.json. -/

namespace Sys2Proof

/-- The fifteen registers (10_state.md R10), in the order of their numbers 0x00 to 0x0E. -/
inductive Reg where
  | cmd | status | din | crc | syncVal | addrVal | opcode | plen | txLen | rxLen
  | fSync | fAddr | fLen | fCrc | payLen
  deriving DecidableEq, Repr

/-- The three buffer spaces (20_memory.md R42). -/
inductive Space where
  | pbuf | txbuf | rxbuf
  deriving DecidableEq, Repr

/-- The six commands (30_encoding.md R69). -/
inductive Command where
  | crcClr | crcUpd | crcBuf | encode | decode | validate
  deriving DecidableEq, Repr

/-- The six errors of the block (60_exceptions.md R140). -/
inductive Err where
  | tooShort | badChecksum | badLength | deviceNak | tooLong | illegalCommand
  deriving DecidableEq, Repr

/-- What the host hands the block: a transaction word (30_encoding.md R66), the RESET action, which has no word
(70_reset_and_hazards.md R160), or the bytes of a link frame in link order (30_encoding.md R60; log 6). -/
inductive Input where
  | word (w : Word)
  | reset
  | frame (bytes : List Byte)
  deriving DecidableEq, Repr

/-- Why an input is not an instruction: the clauses of 30_encoding.md R68 in their order, and link bytes that are
not a well-formed frame, with the check they fail. -/
inductive Malformed where
  /-- `w[27:24]` is not 0. -/
  | zeroField
  /-- `RD` or `WR` with `SPACE` other than 00. -/
  | registerSpace
  /-- `RDB` or `WRB` with `SPACE` = 11. -/
  | reservedSpace
  /-- `RD` or `RDB` with `D` other than 0. -/
  | readData
  /-- `WRB` with `D[15:8]` other than 0. -/
  | byteData
  /-- `WR` of an 8-bit register with `D[15:8]` other than 0. -/
  | registerData
  /-- `RD` or `WR` of a reserved register number, 0x0F or above. -/
  | reservedRegister
  /-- Link bytes that `decode` rejects with this error. -/
  | notAFrame (e : Err)
  deriving DecidableEq, Repr

/-- The instructions of the block: one constructor per row of spec/opcode_table.json. -/
inductive Instr where
  /-- `RD reg` (43_host_access.md R130). -/
  | rd (r : Reg)
  /-- `WR reg, value` (R131). -/
  | wr (r : Reg) (d : Half)
  /-- `RDB space, index` (R132). -/
  | rdb (sp : Space) (i : Byte)
  /-- `WRB space, index, byte` (R133). -/
  | wrb (sp : Space) (i b : Byte)
  /-- `CRC.CLR` (40_crc.md R82). -/
  | crcClr
  /-- `CRC.UPD` (40_crc.md R83). -/
  | crcUpd
  /-- `CRC.BUF` (40_crc.md R84). -/
  | crcBuf
  /-- `ENCODE` (41_encode.md R101). -/
  | encode
  /-- `DECODE` (42_decode_validate.md R111). -/
  | decode
  /-- `VALIDATE` (42_decode_validate.md R114). -/
  | validate
  /-- A `WR` to `CMD` of a code that names no command (60_exceptions.md R146). -/
  | reservedCommand (code : Byte)
  /-- `RESET` (70_reset_and_hazards.md R160). -/
  | reset
  /-- A link frame whose payload is neither the ACK nor the NAK payload (30_encoding.md R60, R64). Its length byte
  and its trailer are those of R61 and R62. -/
  | frame (sync address : Byte) (data : List Byte)
  /-- The link frame whose payload is the one byte 0x00 (30_encoding.md R64). -/
  | frameAck (sync address : Byte)
  /-- The link frame whose payload is the one byte 0xFF (30_encoding.md R64). -/
  | frameNak (sync address : Byte)
  deriving DecidableEq, Repr

end Sys2Proof
end

