-- ==== Sys2Proof/Machine/Params.lean ====
section
/-! DEFINITION. The numbers of the spec: parameter values, register numbers and widths, space numbers, command codes, error and class codes. -/

namespace Sys2Proof.Machine

/-- The parameter values of this block (00_scope.md R5; UNVERIFIED by the source document: log 5). -/
def fcb : Config :=
  { crcPolyR := 0x8408#16, crcInit := 0x0000#16, trailerLowFirst := true,
    syncReset := 0x02#8, addrReset := 0x03#8, minFrame := 6 }

/-- `HDR_LEN` (00_scope.md R5). -/
def hdrLen : Nat := 3
/-- `TRL_LEN` (00_scope.md R5). -/
def trlLen : Nat := 2
/-- `ACK_BYTE` (00_scope.md R5). -/
def ackByte : Byte := 0x00#8
/-- `NAK_BYTE` (00_scope.md R5). -/
def nakByte : Byte := 0xFF#8
/-- `MAX_FRAME` (00_scope.md R5). -/
def maxFrame : Nat := 255
/-- `MAX_DATA` = `MAX_FRAME - HDR_LEN - TRL_LEN` (00_scope.md R5). -/
def maxData : Nat := maxFrame - hdrLen - trlLen
/-- `MAX_PARAMS` = `MAX_DATA - 1` (00_scope.md R5). -/
def maxParams : Nat := maxData - 1
/-- `BUF_SIZE` (00_scope.md R5). -/
def bufSize : Nat := 256

/-- Register numbers (20_memory.md R41). -/
def regNum : Reg → Byte
  | .cmd => 0x00#8 | .status => 0x01#8 | .din => 0x02#8 | .crc => 0x03#8 | .syncVal => 0x04#8
  | .addrVal => 0x05#8 | .opcode => 0x06#8 | .plen => 0x07#8 | .txLen => 0x08#8 | .rxLen => 0x09#8
  | .fSync => 0x0A#8 | .fAddr => 0x0B#8 | .fLen => 0x0C#8 | .fCrc => 0x0D#8 | .payLen => 0x0E#8

/-- The register of a number; 0x0F to 0xFF are reserved (20_memory.md R41, 30_encoding.md R71). -/
def regOfNum (a : Byte) : Option Reg :=
  match a.toNat with
  | 0x00 => some .cmd | 0x01 => some .status | 0x02 => some .din | 0x03 => some .crc
  | 0x04 => some .syncVal | 0x05 => some .addrVal | 0x06 => some .opcode | 0x07 => some .plen
  | 0x08 => some .txLen | 0x09 => some .rxLen | 0x0A => some .fSync | 0x0B => some .fAddr
  | 0x0C => some .fLen | 0x0D => some .fCrc | 0x0E => some .payLen
  | _ => none

/-- The 16-bit registers are `CRC` and `F_CRC`; the others have 8 bits (10_state.md R10). -/
def regWide : Reg → Bool
  | .crc | .fCrc => true
  | .cmd | .status | .din | .syncVal | .addrVal | .opcode | .plen | .txLen | .rxLen
  | .fSync | .fAddr | .fLen | .payLen => false

/-- Buffer space numbers (20_memory.md R42). -/
def spaceNum : Space → BitVec 2
  | .pbuf => 0#2 | .txbuf => 1#2 | .rxbuf => 2#2

/-- The buffer space of a number; 3 is reserved (20_memory.md R42). -/
def spaceOfNum (n : BitVec 2) : Option Space :=
  match n.toNat with
  | 0 => some .pbuf | 1 => some .txbuf | 2 => some .rxbuf
  | _ => none

/-- Command codes (30_encoding.md R69). -/
def commandCode : Command → Byte
  | .crcClr => 0x01#8 | .crcUpd => 0x02#8 | .crcBuf => 0x03#8
  | .encode => 0x04#8 | .decode => 0x05#8 | .validate => 0x06#8

/-- The command of a code; 0x00 and 0x07 to 0xFF name none (30_encoding.md R69, R70). -/
def commandOfCode (v : Byte) : Option Command :=
  match v.toNat with
  | 0x01 => some .crcClr | 0x02 => some .crcUpd | 0x03 => some .crcBuf
  | 0x04 => some .encode | 0x05 => some .decode | 0x06 => some .validate
  | _ => none

/-- The code an error leaves in `STATUS.ERR` (60_exceptions.md R140). -/
def errCode : Err → BitVec 4
  | .tooShort => 1#4 | .badChecksum => 2#4 | .badLength => 3#4
  | .deviceNak => 4#4 | .tooLong => 5#4 | .illegalCommand => 6#4

end Sys2Proof.Machine
end

