-- ==== Sys2Proof/Machine/Codec.lean ====
section
/-! DEFINITION. The pure functions of the codec: crc_step, crc16, the trailer, encode, decode and classify. No state is read or written here. -/

namespace Sys2Proof.Machine

/-- `v[7:0]`. -/
def lowByte (v : Half) : Byte := v.extractLsb' 0 8

/-- `v[15:8]`. -/
def highByte (v : Half) : Byte := v.extractLsb' 8 8

/-- One of the eight iterations of 40_crc.md R80: test bit 0, shift right by one, exclusive-or with `CRC_POLY_R`
when the tested bit was 1. -/
def crcShift (p : Config) (x : Half) : Half :=
  if x.getLsbD 0 then (x >>> 1) ^^^ p.crcPolyR else x >>> 1

/-- `n` iterations of `crcShift`. -/
def crcShifts (p : Config) : Nat → Half → Half
  | 0, x => x
  | n + 1, x => crcShifts p n (crcShift p x)

/-- `crc_step(c, b)` (40_crc.md R80). -/
def crcStep (p : Config) (c : Half) (b : Byte) : Half :=
  crcShifts p 8 (c ^^^ b.setWidth 16)

/-- The accumulator after folding the bytes of `s` in order, from `c` (40_crc.md R81, R90). -/
def crcFold (p : Config) : Half → List Byte → Half
  | c, [] => c
  | c, b :: s => crcFold p (crcStep p c b) s

/-- `crc16(s)` (40_crc.md R81). -/
def crc16 (p : Config) (s : List Byte) : Half := crcFold p p.crcInit s

/-- The two trailer bytes that carry a checksum, in link order (20_memory.md R46, 30_encoding.md R62). -/
def trailerBytes (p : Config) (c : Half) : List Byte :=
  if p.trailerLowFirst then [lowByte c, highByte c] else [highByte c, lowByte c]

/-- The number that two trailer bytes, in link order, carry (20_memory.md R46, 30_encoding.md R62). -/
def trailerNumber (p : Config) (first second : Byte) : Half :=
  if p.trailerLowFirst then second ++ first else first ++ second

/-- The header and payload of a frame (30_encoding.md R60, R61): every byte before the trailer. -/
def frameBody (sync address : Byte) (data : List Byte) : List Byte :=
  sync :: address :: BitVec.ofNat 8 (hdrLen + data.length + trlLen) :: data

/-- A frame with the given sync byte, address byte and payload, its length byte and trailer those of
30_encoding.md R61 and R62. It is a frame only for payloads of at most `MAX_DATA` bytes; beyond, its length byte is the
length modulo 256 (DESIGN CHOICE: log 20). -/
def buildFrame (p : Config) (sync address : Byte) (data : List Byte) : List Byte :=
  frameBody sync address data ++ trailerBytes p (crc16 p (frameBody sync address data))

/-- `encode(sync, address, opcode, params)` (41_encode.md R100); undefined for more than 249 parameters. -/
def encodeFrame (p : Config) (sync address opcode : Byte) (params : List Byte) : Option (List Byte) :=
  if params.length ≤ maxParams then some (buildFrame p sync address (opcode :: params)) else none

/-- The document's Frame record (10_state.md R32, 42_decode_validate.md R110). -/
structure Frame where
  sync : Byte
  address : Byte
  length : Byte
  data : List Byte
  crc16 : Half
  deriving DecidableEq, Repr

/-- `decode(B)` (42_decode_validate.md R110, R112): minimum length, then trailer, then length byte. The rule's domain is
at most 255 bytes; beyond it this function goes through the same checks and answers `BadChecksum` or `BadLength`, never a
Frame (DESIGN CHOICE: log 20). -/
def decodeFrame (p : Config) (B : List Byte) : Except Err Frame :=
  let n := B.length
  if n < p.minFrame then .error .tooShort
  else
    let c := crc16 p (B.take (n - trlLen))
    let t := trailerNumber p (B.getD (n - 2) 0#8) (B.getD (n - 1) 0#8)
    if c ≠ t then .error .badChecksum
    else if (B.getD 2 0#8).toNat ≠ n then .error .badLength
    else .ok { sync := B.getD 0 0#8, address := B.getD 1 0#8, length := B.getD 2 0#8,
               data := (B.drop hdrLen).take (n - hdrLen - trlLen), crc16 := t }

/-- The payload classes (30_encoding.md R64). -/
inductive PayloadClass where
  | ack | nak | data
  deriving DecidableEq, Repr

/-- `classify(data)` (42_decode_validate.md R113). -/
def classify (data : List Byte) : PayloadClass :=
  if data.length = 1 ∧ data.getD 0 0#8 = ackByte then .ack
  else if data.length = 1 ∧ data.getD 0 0#8 = nakByte then .nak
  else .data

/-- The code of a class in `STATUS.CLASS`; 0 is NONE (10_state.md R16). -/
def classCode : PayloadClass → BitVec 2
  | .ack => 1#2 | .nak => 2#2 | .data => 3#2

end Sys2Proof.Machine
end

