-- ==== Sys2Proof/WellFormed.lean ====
section
/-! DEFINITION. Which instructions are well formed: those the encodings of 30_encoding.md can write, each in one way only. -/

namespace Sys2Proof

open Sys2Proof.Machine

/-- An instruction an encoding stands for. A `WR` to `CMD` is written as the command it starts (the command rows of
the opcode table are matched first; log 7), an 8-bit register takes a value below 256 (30_encoding.md R68), a reserved code
names no command (R70), and a link frame keeps R60, R61 and the row its payload's class has (R64). Only the minimum
frame size of `p` matters (00_scope.md R5). -/
def Instr.wellFormedWith (p : Config) : Instr → Bool
  | .rd _ => true
  | .wr r d => r ≠ .cmd && (regWide r || highByte d == 0#8)
  | .rdb _ _ => true
  | .wrb _ _ _ => true
  | .crcClr => true
  | .crcUpd => true
  | .crcBuf => true
  | .encode => true
  | .decode => true
  | .validate => true
  | .reservedCommand v => commandOfCode v == none
  | .reset => true
  | .frame _ _ data =>
    decide (p.minFrame ≤ hdrLen + data.length + trlLen) && decide (data.length ≤ maxData)
      && classify data == .data
  | .frameAck _ _ => true
  | .frameNak _ _ => true

/-- Well formed for the parameters of this block. -/
def Instr.wellFormed (i : Instr) : Bool := i.wellFormedWith fcb

end Sys2Proof
end

