-- ==== Sys2Proof/Decode.lean ====
section
/-! DEFINITION. The decoder: from a host input to an instruction, rejecting by name; and the encoder, from the same encodings of 30_encoding.md. -/

namespace Sys2Proof

open Sys2Proof.Machine

/-- `KIND` = `w[31:30]` (30_encoding.md R66). -/
def wordKind (w : Word) : BitVec 2 := w.extractLsb' 30 2
/-- `SPACE` = `w[29:28]` (30_encoding.md R66). -/
def wordSpace (w : Word) : BitVec 2 := w.extractLsb' 28 2
/-- The zero field `w[27:24]` (30_encoding.md R66). -/
def wordZero (w : Word) : BitVec 4 := w.extractLsb' 24 4
/-- `A` = `w[23:16]` (30_encoding.md R66). -/
def wordA (w : Word) : Byte := w.extractLsb' 16 8
/-- `D` = `w[15:0]` (30_encoding.md R66). -/
def wordD (w : Word) : Half := w.extractLsb' 0 16

/-- The instruction of a `WR` to `CMD` of code `v` (30_encoding.md R69, R70). -/
def decodeCommand (v : Byte) : Instr :=
  match commandOfCode v with
  | some .crcClr => .crcClr
  | some .crcUpd => .crcUpd
  | some .crcBuf => .crcBuf
  | some .encode => .encode
  | some .decode => .decode
  | some .validate => .validate
  | none => .reservedCommand v

/-- A word of `KIND` 00 whose zero field is 0 (30_encoding.md R66, R68). -/
def decodeRd (w : Word) : Except Malformed Instr :=
  if wordSpace w ≠ 0#2 then .error .registerSpace
  else if wordD w ≠ 0#16 then .error .readData
  else match regOfNum (wordA w) with
    | none => .error .reservedRegister
    | some r => .ok (.rd r)

/-- A word of `KIND` 01 whose zero field is 0 (30_encoding.md R66, R68). -/
def decodeWr (w : Word) : Except Malformed Instr :=
  if wordSpace w ≠ 0#2 then .error .registerSpace
  else match regOfNum (wordA w) with
    | none => .error .reservedRegister
    | some r =>
      if regWide r = false ∧ highByte (wordD w) ≠ 0#8 then .error .registerData
      else if r = .cmd then .ok (decodeCommand (lowByte (wordD w)))
      else .ok (.wr r (wordD w))

/-- A word of `KIND` 10 whose zero field is 0 (30_encoding.md R66, R68). -/
def decodeRdb (w : Word) : Except Malformed Instr :=
  match spaceOfNum (wordSpace w) with
  | none => .error .reservedSpace
  | some sp => if wordD w ≠ 0#16 then .error .readData else .ok (.rdb sp (wordA w))

/-- A word of `KIND` 11 whose zero field is 0 (30_encoding.md R66, R68). -/
def decodeWrb (w : Word) : Except Malformed Instr :=
  match spaceOfNum (wordSpace w) with
  | none => .error .reservedSpace
  | some sp =>
    if highByte (wordD w) ≠ 0#8 then .error .byteData
    else .ok (.wrb sp (wordA w) (lowByte (wordD w)))

/-- A transaction word (30_encoding.md R66 to R71). -/
def decodeWord (w : Word) : Except Malformed Instr :=
  if wordZero w ≠ 0#4 then .error .zeroField
  else if wordKind w = 0#2 then decodeRd w
  else if wordKind w = 1#2 then decodeWr w
  else if wordKind w = 2#2 then decodeRdb w
  else decodeWrb w

/-- The bytes of a link frame (30_encoding.md R60 to R64), in the row its payload's class has. More than 255 bytes are
no frame and are refused with the check they fail (log 20). -/
def decodeLink (p : Config) (bytes : List Byte) : Except Malformed Instr :=
  match decodeFrame p bytes with
  | .error e => .error (.notAFrame e)
  | .ok f =>
    match classify f.data with
    | .ack => .ok (.frameAck f.sync f.address)
    | .nak => .ok (.frameNak f.sync f.address)
    | .data => .ok (.frame f.sync f.address f.data)

/-- The instruction an input stands for, or the name of what is wrong with it, for the parameters `p` (00_scope.md R5). -/
def decodeWith (p : Config) : Input → Except Malformed Instr
  | .word w => decodeWord w
  | .reset => .ok .reset
  | .frame bytes => decodeLink p bytes

/-- The decoder of this block. -/
def decode (inp : Input) : Except Malformed Instr := decodeWith fcb inp

/-- The word with these fields (30_encoding.md R66). -/
def mkWord (kind space : BitVec 2) (a : Byte) (d : Half) : Word := kind ++ space ++ 0#4 ++ a ++ d

/-- The input that stands for an instruction, for the parameters `p` (30_encoding.md R60 to R69, 00_scope.md R5). -/
def encodeWith (p : Config) : Instr → Input
  | .rd r => .word (mkWord 0#2 0#2 (regNum r) 0#16)
  | .wr r d => .word (mkWord 1#2 0#2 (regNum r) d)
  | .rdb sp i => .word (mkWord 2#2 (spaceNum sp) i 0#16)
  | .wrb sp i b => .word (mkWord 3#2 (spaceNum sp) i (b.setWidth 16))
  | .crcClr => .word (mkWord 1#2 0#2 (regNum .cmd) ((commandCode .crcClr).setWidth 16))
  | .crcUpd => .word (mkWord 1#2 0#2 (regNum .cmd) ((commandCode .crcUpd).setWidth 16))
  | .crcBuf => .word (mkWord 1#2 0#2 (regNum .cmd) ((commandCode .crcBuf).setWidth 16))
  | .encode => .word (mkWord 1#2 0#2 (regNum .cmd) ((commandCode .encode).setWidth 16))
  | .decode => .word (mkWord 1#2 0#2 (regNum .cmd) ((commandCode .decode).setWidth 16))
  | .validate => .word (mkWord 1#2 0#2 (regNum .cmd) ((commandCode .validate).setWidth 16))
  | .reservedCommand v => .word (mkWord 1#2 0#2 (regNum .cmd) (v.setWidth 16))
  | .reset => .reset
  | .frame sync address data => .frame (buildFrame p sync address data)
  | .frameAck sync address => .frame (buildFrame p sync address [ackByte])
  | .frameNak sync address => .frame (buildFrame p sync address [nakByte])

/-- The encoder of this block. -/
def encode (i : Instr) : Input := encodeWith fcb i

/-- The first `n` bytes of a number, least significant first. -/
def bytesOfNat : Nat → Nat → List Byte
  | 0, _ => []
  | n + 1, w => BitVec.ofNat 8 w :: bytesOfNat n (w / 256)

/-- The input whose bits a row of spec/opcode_table.json numbers: a 32-bit row is a transaction word, a row of no bits
is the input without a word, RESET, and a row of any other width is the bytes of a link frame, first byte in bits 7:0
(DESIGN CHOICE: log 8). -/
def inputOfBits (nbits w : Nat) : Input :=
  if nbits = 32 then .word (BitVec.ofNat 32 w)
  else if nbits = 0 then .reset
  else .frame (bytesOfNat (nbits / 8) w)

/-- The instruction the decoder reads from the bits `w` of a row of `nbits` bits. -/
def decodeTableWord (nbits w : Nat) : Option Instr :=
  (decode (inputOfBits nbits w)).toOption

end Sys2Proof
end

