-- ==== Sys2Proof/Machine/State.lean ====
section
/-! DEFINITION. The state of the block as plain data, the reasons a step can stop, and the state after RESET. -/

namespace Sys2Proof.Machine

/-- One 256-byte buffer (10_state.md R28 to R30): the bytes written since RESET, as (index, byte) pairs in rising order of
index. An index that is not listed has not been written (20_memory.md R54). `Memory.wf` says the form. -/
abbrev Memory := List Host.Cell

/-- What a transaction returns to the host (30_encoding.md R66): 16 bits for `RD`, 8 bits for `RDB`, nothing for the rest.
The model's own (log 3). -/
inductive Reply where
  | none
  | reg (v : Half)
  | byte (b : Byte)
  deriving DecidableEq, Repr

/-- The state of the block: the fourteen registers that hold a value, `STATUS` as its four fields, and the three buffers
(10_state.md R10); then the model's own two fields, what the last input returned and what the host has issued. -/
structure State where
  /-- `STATUS.ERR`, bits 3:0 (10_state.md R13). -/
  err : BitVec 4
  /-- `STATUS.TXVALID`, bit 4 (10_state.md R14). -/
  txValid : Bool
  /-- `STATUS.FVALID`, bit 5 (10_state.md R15). -/
  fValid : Bool
  /-- `STATUS.CLASS`, bits 7:6 (10_state.md R16). -/
  cls : BitVec 2
  /-- `DIN` (10_state.md R17). -/
  din : Byte
  /-- `CRC` (10_state.md R18). -/
  crc : Half
  /-- `SYNC_VAL` (10_state.md R19). -/
  syncVal : Byte
  /-- `ADDR_VAL` (10_state.md R20). -/
  addrVal : Byte
  /-- `OPCODE` (10_state.md R21). -/
  opcode : Byte
  /-- `PLEN` (10_state.md R22). -/
  plen : Byte
  /-- `TXLEN` (10_state.md R23). -/
  txLen : Byte
  /-- `RXLEN` (10_state.md R24). -/
  rxLen : Byte
  /-- `F_SYNC` (10_state.md R25). -/
  fSync : Byte
  /-- `F_ADDR` (10_state.md R25). -/
  fAddr : Byte
  /-- `F_LEN` (10_state.md R25). -/
  fLen : Byte
  /-- `F_CRC` (10_state.md R25). -/
  fCrc : Half
  /-- `PAY_LEN` (10_state.md R26). -/
  payLen : Byte
  /-- `PBUF` (10_state.md R28). -/
  pbuf : Memory
  /-- `TXBUF` (10_state.md R29). -/
  txbuf : Memory
  /-- `RXBUF` (10_state.md R30). -/
  rxbuf : Memory
  /-- What the last input returned to the host (the model's own: log 3). -/
  reply : Reply
  /-- What the host has issued and the block has not taken, oldest first (the model's own: log 2). -/
  inputs : List Input
  deriving DecidableEq, Repr

/-- Why the model stops with a fault. -/
inductive Fault where
  /-- Raised by `RDB`, `ENCODE`, `CRC.BUF`, `DECODE` and `VALIDATE` that read a buffer byte nothing has written since
  RESET (20_memory.md R54, 93_implementation_defined.md U1). Safe: the hardware goes on with a byte the spec does not give. -/
  | unwrittenByte (sp : Space) (i : Nat)
  deriving DecidableEq, Repr

/-- Why the model has no meaning for an input. -/
inductive Refusal where
  /-- Raised by `exec` for an instruction that has no meaning yet. Safe. -/
  | notModelled (mnemonic : String)
  /-- Raised by `step` for an input that is no instruction (30_encoding.md R68, 93_implementation_defined.md U2). Safe: the
  hardware changes no state for it and goes on. -/
  | malformed (why : Malformed)
  /-- Raised by `exec` for a link frame of more than 255 bytes, which no input decodes to and which cannot be presented
  to the block (10_state.md R24, 93_implementation_defined.md U8). Safe. -/
  | bufferTooLong
  deriving DecidableEq, Repr

/-- The outcome of one step of this machine. -/
abbrev Result := Host.Outcome State Fault Refusal

/-- The state after RESET for the parameters `p` (10_state.md R36, 70_reset_and_hazards.md R160), nothing issued by the host. -/
def State.resetWith (p : Config) : State :=
  { err := 0#4, txValid := false, fValid := false, cls := 0#2
    din := 0x00#8, crc := p.crcInit, syncVal := p.syncReset, addrVal := p.addrReset
    opcode := 0x00#8, plen := 0x00#8, txLen := 0x00#8, rxLen := 0x00#8
    fSync := 0x00#8, fAddr := 0x00#8, fLen := 0x00#8, fCrc := 0x0000#16, payLen := 0x00#8
    pbuf := [], txbuf := [], rxbuf := []
    reply := .none, inputs := [] }

/-- The state right after RESET (10_state.md R36). -/
def State.reset : State := State.resetWith fcb

end Sys2Proof.Machine
end

