-- ==== Sys2Proof/Machine/Flags.lean ====
section
/-! DEFINITION. The block's flags are the four fields of STATUS: their packing into the register, and how a command's outcome is written to ERR. -/

namespace Sys2Proof.Machine

/-- `STATUS = {CLASS[1:0], FVALID, TXVALID, ERR[3:0]}` (10_state.md R12). -/
def statusByte (s : State) : Byte :=
  s.cls ++ BitVec.ofBool s.fValid ++ BitVec.ofBool s.txValid ++ s.err

/-- `ERR <- 0`: the command completed without error (10_state.md R13). -/
def clearErr (s : State) : State := { s with err := 0#4 }

/-- `ERR <- code of e` (60_exceptions.md R140). -/
def setErr (e : Err) (s : State) : State := { s with err := errCode e }

/-- `CLASS <- code of k` (10_state.md R16). -/
def setClass (k : PayloadClass) (s : State) : State := { s with cls := classCode k }

end Sys2Proof.Machine
end

