-- ==== Sys2Proof/Machine/Ops.lean ====
section
/-! DEFINITION. The named operations over buffers and registers, taking an error, completing a transaction, and taking the host's next input. -/

namespace Sys2Proof.Machine

/-- The canonical form of a buffer: indexes strictly rising, all below `BUF_SIZE` (20_memory.md R42). -/
abbrev Memory.wf (m : Memory) : Prop :=
  m.Pairwise (fun x y => x.1 < y.1) ∧ ∀ c ∈ m, c.1 < bufSize

/-- The byte at an index, or `none` where nothing has been written since RESET (20_memory.md R54). -/
def Memory.read : Memory → Nat → Option Byte
  | [], _ => none
  | (a, b) :: m, i => if a = i then some b else Memory.read m i

/-- Write one byte. -/
def Memory.write : Memory → Nat → Byte → Memory
  | [], i, b => [(i, b)]
  | (a, c) :: m, i, b =>
    if a < i then (a, c) :: Memory.write m i b
    else if a = i then (i, b) :: m
    else (i, b) :: (a, c) :: m

/-- Write a byte sequence from an index on, first byte first. -/
def Memory.writeBytes : Memory → Nat → List Byte → Memory
  | m, _, [] => m
  | m, i, b :: bs => Memory.writeBytes (m.write i b) (i + 1) bs

/-- The `n` bytes from index `i` on, or the fault of the first that has not been written (20_memory.md R54; log 10). -/
def readRange (sp : Space) (m : Memory) : Nat → Nat → Except Fault (List Byte)
  | _, 0 => .ok []
  | i, n + 1 =>
    match m.read i with
    | none => .error (.unwrittenByte sp i)
    | some b =>
      match readRange sp m (i + 1) n with
      | .error f => .error f
      | .ok bs => .ok (b :: bs)

/-- `InvalidateFrame()` (10_state.md R27). -/
def invalidateFrame (s : State) : State :=
  { s with fValid := false, cls := 0#2, fSync := 0x00#8, fAddr := 0x00#8, fLen := 0x00#8,
           fCrc := 0x0000#16, payLen := 0x00#8 }

/-- The transaction returns no value (30_encoding.md R66). -/
def noReply (s : State) : State := { s with reply := .none }

/-- The transaction returns 16 bits to the host (30_encoding.md R66). -/
def replyReg (v : Half) (s : State) : State := { s with reply := .reg v }

/-- The transaction returns 8 bits to the host (30_encoding.md R66). -/
def replyByte (b : Byte) (s : State) : State := { s with reply := .byte b }

/-- A command ends without error: `ERR <- 0`, nothing returned (10_state.md R13, 30_encoding.md R66). -/
def complete (s : State) : State := noReply (clearErr s)

/-- `raise e`, the one way the block takes an error: its code goes to `STATUS.ERR`, nothing is saved and control goes
nowhere (00_scope.md section 6, 60_exceptions.md R148). There is no return from it (R150). -/
def raise (e : Err) (s : State) : State := noReply (setErr e s)

/-- `MemWrite(space, i, 1, b)` (20_memory.md R44). -/
def memWrite (sp : Space) (i : Byte) (b : Byte) (s : State) : State :=
  match sp with
  | .pbuf => { s with pbuf := s.pbuf.write i.toNat b }
  | .txbuf => s
  | .rxbuf => invalidateFrame { s with rxbuf := s.rxbuf.write i.toNat b }

/-- Place `bytes` in `RXBUF` from index 0 on and their number in `RXLEN`: the net effect of the writes that LDRX stands
for (30_encoding.md R74, 70_reset_and_hazards.md R169). More than 255 bytes cannot be presented (10_state.md R24). -/
def loadBuffer (bytes : List Byte) (s : State) : Result :=
  if bytes.length ≤ maxFrame then
    .next (noReply (invalidateFrame
      { s with rxbuf := s.rxbuf.writeBytes 0 bytes, rxLen := BitVec.ofNat 8 bytes.length }))
  else .refused .bufferTooLong

/-- The host's next input and the state without it (10_state.md R31, 20_memory.md R50). -/
def takeInput (s : State) : Option (Input × State) :=
  match s.inputs with
  | [] => none
  | i :: rest => some (i, { s with inputs := rest })

/-- One atomic step with a given decoder and given meanings (00_scope.md R4, 20_memory.md R49, R50). With nothing issued
by the host nothing changes (60_exceptions.md R152; log 2). An input that is no instruction is refused
(30_encoding.md R68; log 4). -/
def stepBy (dec : Input → Except Malformed Instr) (run : Instr → State → Result) (s : State) : Result :=
  match takeInput s with
  | none => .next s
  | some (inp, rest) =>
    match dec inp with
    | .error why => .refused (.malformed why)
    | .ok i => run i rest

/-- The state in which the host's next input is `i`. -/
def placeInput (i : Input) (s : State) : State := { s with inputs := i :: s.inputs }

end Sys2Proof.Machine
end

