-- ==== Sys2Proof/Machine/Operands.lean ====
section
/-! DEFINITION. The operands of transactions and commands: register values, buffer bytes, the parameter sequence and the receive buffer. -/

namespace Sys2Proof.Machine

/-- `RegRead(r)`: the value a `RD` returns, an 8-bit register zero-extended (20_memory.md R43, 43_host_access.md R130). -/
def regRead (r : Reg) (s : State) : Half :=
  match r with
  | .cmd => 0x0000#16
  | .status => (statusByte s).setWidth 16
  | .din => s.din.setWidth 16
  | .crc => s.crc
  | .syncVal => s.syncVal.setWidth 16
  | .addrVal => s.addrVal.setWidth 16
  | .opcode => s.opcode.setWidth 16
  | .plen => s.plen.setWidth 16
  | .txLen => s.txLen.setWidth 16
  | .rxLen => s.rxLen.setWidth 16
  | .fSync => s.fSync.setWidth 16
  | .fAddr => s.fAddr.setWidth 16
  | .fLen => s.fLen.setWidth 16
  | .fCrc => s.fCrc
  | .payLen => s.payLen.setWidth 16

/-- The buffer of a space (20_memory.md R40). -/
def bufferOf (sp : Space) (s : State) : Memory :=
  match sp with
  | .pbuf => s.pbuf
  | .txbuf => s.txbuf
  | .rxbuf => s.rxbuf

/-- `MemRead(space, i, 1)`; `none` for a byte not written since RESET (20_memory.md R44, R54). -/
def memRead (sp : Space) (i : Nat) (s : State) : Option Byte := (bufferOf sp s).read i

/-- The Command's parameters, `PBUF[0 .. PLEN-1]` (10_state.md R22, R33). -/
def paramBytes (s : State) : Except Fault (List Byte) := readRange .pbuf s.pbuf 0 s.plen.toNat

/-- The received buffer, `RXBUF[0 .. RXLEN-1]` (10_state.md R24, R30). -/
def rxBytes (s : State) : Except Fault (List Byte) := readRange .rxbuf s.rxbuf 0 s.rxLen.toNat

/-- The encoded frame, `TXBUF[0 .. TXLEN-1]` (10_state.md R29, R32). -/
def txBytes (s : State) : Except Fault (List Byte) := readRange .txbuf s.txbuf 0 s.txLen.toNat

end Sys2Proof.Machine
end

