-- ==== Sys2Proof/Machine/CrcCommands.lean ====
section
/-! DEFINITION. The CRC family: CRC.CLR, CRC.UPD and CRC.BUF (40_crc.md section 3). -/

namespace Sys2Proof.Machine

/-- `CRC <- CRC_INIT; ERR <- 0` (40_crc.md R82). -/
def runCrcClr (p : Config) (s : State) : Result := .next (complete { s with crc := p.crcInit })

/-- `CRC <- crc_step(CRC, DIN); ERR <- 0` (40_crc.md R83). -/
def runCrcUpd (p : Config) (s : State) : Result :=
  .next (complete { s with crc := crcStep p s.crc s.din })

/-- `CRC <- crc16(RXBUF[0 .. RXLEN-1]); ERR <- 0` (40_crc.md R84). -/
def runCrcBuf (p : Config) (s : State) : Result :=
  match rxBytes s with
  | .error f => .fault f
  | .ok B => .next (complete { s with crc := crc16 p B })

/-- `CRC.CLR` (40_crc.md R82). -/
def execCrcClr (s : State) : Result := runCrcClr fcb s

/-- `CRC.UPD` (40_crc.md R83). -/
def execCrcUpd (s : State) : Result := runCrcUpd fcb s

/-- `CRC.BUF` (40_crc.md R84). -/
def execCrcBuf (s : State) : Result := runCrcBuf fcb s

end Sys2Proof.Machine
end

