-- ==== Sys2Proof/Machine/DecodeCommands.lean ====
section
/-! DEFINITION. The decode family: DECODE and VALIDATE (42_decode_validate.md R111, R114). -/

namespace Sys2Proof.Machine

/-- The writes of `DECODE` once its three checks have passed on the buffer `B` whose trailer is the number `t`, up to and
including `FVALID <- 1` (42_decode_validate.md R111). -/
def acceptFrame (B : List Byte) (t : Half) (s : State) : State :=
  { s with fSync := B.getD 0 0#8, fAddr := B.getD 1 0#8, fLen := B.getD 2 0#8, fCrc := t,
           payLen := BitVec.ofNat 8 (B.length - 5), fValid := true }

/-- The checks that `DECODE` and `VALIDATE` share, in their fixed order, and their three `raise` exits
(42_decode_validate.md R111, R112); `finish` is what the command does once they have passed. -/
def decodeThen (p : Config) (finish : List Byte → State → State) (s : State) : Result :=
  let n := s.rxLen.toNat
  let s₁ := invalidateFrame s
  if n < p.minFrame then .next (raise .tooShort s₁)
  else
    match rxBytes s with
    | .error f => .fault f
    | .ok B =>
      let c := crc16 p (B.take (n - 2))
      let s₂ := { s₁ with crc := c }
      let t := trailerNumber p (B.getD (n - 2) 0#8) (B.getD (n - 1) 0#8)
      if c ≠ t then .next (raise .badChecksum s₂)
      else if (B.getD 2 0#8).toNat ≠ n then .next (raise .badLength s₂)
      else .next (finish B (acceptFrame B t s₂))

/-- What `DECODE` does last: `ERR <- 0` (42_decode_validate.md R111). -/
def finishDecode (_B : List Byte) (s : State) : State := complete s

/-- What `VALIDATE` does last: the class of the payload, and `DeviceNAK` for a NAK (42_decode_validate.md R114). -/
def finishValidate (B : List Byte) (s : State) : State :=
  if s.payLen = 1#8 ∧ B.getD 3 0#8 = ackByte then complete (setClass .ack s)
  else if s.payLen = 1#8 ∧ B.getD 3 0#8 = nakByte then raise .deviceNak (setClass .nak s)
  else complete (setClass .data s)

/-- `DECODE` (42_decode_validate.md R111). -/
def runDecode (p : Config) (s : State) : Result := decodeThen p finishDecode s

/-- `VALIDATE` (42_decode_validate.md R114). -/
def runValidate (p : Config) (s : State) : Result := decodeThen p finishValidate s

/-- `DECODE` (42_decode_validate.md R111). -/
def execDecode (s : State) : Result := runDecode fcb s

/-- `VALIDATE` (42_decode_validate.md R114). -/
def execValidate (s : State) : Result := runValidate fcb s

end Sys2Proof.Machine
end

