-- ==== Sys2Proof/Machine/EncodeCommand.lean ====
section
/-! DEFINITION. The encode family: ENCODE (41_encode.md R101). -/

namespace Sys2Proof.Machine

/-- The bytes `ENCODE` writes before the trailer, `TXBUF[0 .. n-3]` (41_encode.md R101). -/
def encodeBody (s : State) (params : List Byte) : List Byte :=
  [s.syncVal, s.addrVal, BitVec.ofNat 8 (6 + s.plen.toNat), s.opcode] ++ params

/-- The successful exit of `ENCODE` on the parameters `params` (41_encode.md R101). The checksum is over the bytes just
written to `TXBUF[0 .. n-3]`. -/
def encodeOk (p : Config) (s : State) (params : List Byte) : State :=
  let n := 6 + s.plen.toNat
  let body := encodeBody s params
  let c := crc16 p body
  complete { s with
    txbuf := (s.txbuf.writeBytes 0 body).writeBytes (n - 2) (trailerBytes p c)
    txLen := BitVec.ofNat 8 n
    crc := c
    txValid := true }

/-- `ENCODE` (41_encode.md R101): `TooLong` is tested before anything is read or written. -/
def runEncode (p : Config) (s : State) : Result :=
  if s.plen.toNat > maxParams then
    .next (raise .tooLong { s with txValid := false, txLen := 0x00#8 })
  else
    match paramBytes s with
    | .error f => .fault f
    | .ok params => .next (encodeOk p s params)

/-- `ENCODE` (41_encode.md R101). -/
def execEncode (s : State) : Result := runEncode fcb s

end Sys2Proof.Machine
end

