-- ==== Sys2Proof/Machine/HostAccess.lean ====
section
/-! DEFINITION. The host transactions RD, WR, RDB, WRB and the dispatch of commands (43_host_access.md). -/

namespace Sys2Proof.Machine

/-- `raise IllegalCommand` (60_exceptions.md R146). -/
def illegalCommand (s : State) : Result := .next (raise .illegalCommand s)

/-- Command dispatch: what a `WR` to `CMD` of code `v` does (43_host_access.md R134). -/
def runCommand (p : Config) (v : Byte) (s : State) : Result :=
  match commandOfCode v with
  | some .crcClr => runCrcClr p s
  | some .crcUpd => runCrcUpd p s
  | some .crcBuf => runCrcBuf p s
  | some .encode => runEncode p s
  | some .decode => runDecode p s
  | some .validate => runValidate p s
  | none => illegalCommand s

/-- `RegWrite(r, D)`, register by register; a write to a read-only register is ignored (43_host_access.md R131). -/
def regWrite (p : Config) (r : Reg) (d : Half) (s : State) : Result :=
  match r with
  | .cmd => runCommand p (lowByte d) s
  | .din => .next (noReply { s with din := lowByte d })
  | .syncVal => .next (noReply { s with syncVal := lowByte d })
  | .addrVal => .next (noReply { s with addrVal := lowByte d })
  | .opcode => .next (noReply { s with opcode := lowByte d })
  | .plen => .next (noReply { s with plen := lowByte d })
  | .rxLen => .next (noReply (invalidateFrame { s with rxLen := lowByte d }))
  | .status => .next (noReply s)
  | .crc => .next (noReply s)
  | .txLen => .next (noReply s)
  | .fSync => .next (noReply s)
  | .fAddr => .next (noReply s)
  | .fLen => .next (noReply s)
  | .fCrc => .next (noReply s)
  | .payLen => .next (noReply s)

/-- `RD reg` (43_host_access.md R130). -/
def execRd (r : Reg) (s : State) : Result := .next (replyReg (regRead r s) s)

/-- `WR reg, value` (43_host_access.md R131). -/
def execWr (r : Reg) (d : Half) (s : State) : Result := regWrite fcb r d s

/-- `RDB space, index` (43_host_access.md R132). -/
def execRdb (sp : Space) (i : Byte) (s : State) : Result :=
  match memRead sp i.toNat s with
  | none => .fault (.unwrittenByte sp i.toNat)
  | some b => .next (replyByte b s)

/-- `WRB space, index, byte` (43_host_access.md R133). -/
def execWrb (sp : Space) (i b : Byte) (s : State) : Result := .next (noReply (memWrite sp i b s))

/-- A `WR` to `CMD` of a code that names no command: the code is not stored (43_host_access.md R134, 60_exceptions.md R146). -/
def execReservedCommand (_code : Byte) (s : State) : Result := illegalCommand s

end Sys2Proof.Machine
end

