-- ==== Sys2Proof/Machine/LinkFrames.lean ====
section
/-! DEFINITION. The link frames FRAME, FRAME.ACK and FRAME.NAK handed to the block (30_encoding.md R60 to R64): the host's LDRX of the frame's bytes as one step (log 6). -/

namespace Sys2Proof.Machine

/-- A link frame with a data payload: its bytes are placed in `RXBUF` and their number in `RXLEN` (30_encoding.md R74). -/
def runFrame (p : Config) (sync address : Byte) (data : List Byte) (s : State) : Result :=
  loadBuffer (buildFrame p sync address data) s

/-- The ACK frame (30_encoding.md R64). -/
def runFrameAck (p : Config) (sync address : Byte) (s : State) : Result :=
  loadBuffer (buildFrame p sync address [ackByte]) s

/-- The NAK frame (30_encoding.md R64). -/
def runFrameNak (p : Config) (sync address : Byte) (s : State) : Result :=
  loadBuffer (buildFrame p sync address [nakByte]) s

/-- `FRAME` (30_encoding.md R60, R74). -/
def execFrame (sync address : Byte) (data : List Byte) (s : State) : Result := runFrame fcb sync address data s

/-- `FRAME.ACK` (30_encoding.md R64). -/
def execFrameAck (sync address : Byte) (s : State) : Result := runFrameAck fcb sync address s

/-- `FRAME.NAK` (30_encoding.md R64). -/
def execFrameNak (sync address : Byte) (s : State) : Result := runFrameNak fcb sync address s

end Sys2Proof.Machine
end

