-- ==== Sys2Proof/Machine/Reset.lean ====
section
/-! DEFINITION. The RESET action (70_reset_and_hazards.md R160). -/

namespace Sys2Proof.Machine

/-- Every register and buffer of the block takes its reset value; what the host has issued is the host's and stays
(70_reset_and_hazards.md R160; log 9). -/
def resetBlock (p : Config) (s : State) : State := { State.resetWith p with inputs := s.inputs }

/-- `RESET` for the parameters `p` (70_reset_and_hazards.md R160, 00_scope.md R5). -/
def runReset (p : Config) (s : State) : Result := .next (resetBlock p s)

/-- `RESET` (70_reset_and_hazards.md R160). -/
def execReset (s : State) : Result := runReset fcb s

end Sys2Proof.Machine
end

