-- ==== Sys2Proof/Machine/Dispatch.lean ====
section
/-! DEFINITION. One arm per instruction: the meaning each calls. -/

namespace Sys2Proof.Machine

def exec (i : Instr) (s : State) : Host.Outcome State Fault Refusal :=
  match i with
  | .rd r => Sys2Proof.Machine.execRd r s
  | .wr r d => Sys2Proof.Machine.execWr r d s
  | .rdb sp a => Sys2Proof.Machine.execRdb sp a s
  | .wrb sp a b => Sys2Proof.Machine.execWrb sp a b s
  | .crcClr => Sys2Proof.Machine.execCrcClr s
  | .crcUpd => Sys2Proof.Machine.execCrcUpd s
  | .crcBuf => Sys2Proof.Machine.execCrcBuf s
  | .encode => Sys2Proof.Machine.execEncode s
  | .decode => Sys2Proof.Machine.execDecode s
  | .validate => Sys2Proof.Machine.execValidate s
  | .reservedCommand code => Sys2Proof.Machine.execReservedCommand code s
  | .reset => Sys2Proof.Machine.execReset s
  | .frame sync address data => Sys2Proof.Machine.execFrame sync address data s
  | .frameAck sync address => Sys2Proof.Machine.execFrameAck sync address s
  | .frameNak sync address => Sys2Proof.Machine.execFrameNak sync address s

end Sys2Proof.Machine
end

