-- ==== Sys2Proof/Machine/Step.lean ====
section
/-! DEFINITION. One step of the block: take the host's next input, decode it, carry it out. -/

namespace Sys2Proof.Machine

/-- One atomic step of this block (00_scope.md R4, 20_memory.md R49, R50). -/
def step (s : State) : Host.Outcome State Fault Refusal := stepBy decode exec s

/-- The state in which the host's next input is the one whose bits are `w`, numbered as spec/opcode_table.json numbers
them: the load of a program of one input from outside (log 2, log 8). -/
def State.withFetchWord (s : State) (nbits w : Nat) : State := placeInput (inputOfBits nbits w) s

end Sys2Proof.Machine
end

