-- ==== Sys2Proof/Machine/Parameters.lean ====
section
/-! DEFINITION. The machine with the parameters of 00_scope.md R5 as arguments. `exec`, `step` and `core` are this machine at `fcb`, the values of this block. -/

namespace Sys2Proof.Machine

/-- The meaning of an instruction for the parameters `p` (00_scope.md R5, 93_implementation_defined.md U9). -/
def execWith (p : Config) (i : Instr) (s : State) : Result :=
  match i with
  | .rd r => execRd r s
  | .wr r d => regWrite p r d s
  | .rdb sp a => execRdb sp a s
  | .wrb sp a b => execWrb sp a b s
  | .crcClr => runCrcClr p s
  | .crcUpd => runCrcUpd p s
  | .crcBuf => runCrcBuf p s
  | .encode => runEncode p s
  | .decode => runDecode p s
  | .validate => runValidate p s
  | .reservedCommand code => execReservedCommand code s
  | .reset => runReset p s
  | .frame sync address data => runFrame p sync address data s
  | .frameAck sync address => runFrameAck p sync address s
  | .frameNak sync address => runFrameNak p sync address s

/-- One atomic step for the parameters `p` (00_scope.md R4, R5). -/
def stepWith (p : Config) (s : State) : Result := stepBy (decodeWith p) (execWith p) s

/-- The machine for the parameters `p` (00_scope.md R5). -/
def coreWith (p : Config) : Host.Core :=
  { State := State, Fault := Fault, Refusal := Refusal, step := stepWith p, reset := State.resetWith p }

end Sys2Proof.Machine
end

