-- ==== Sys2Proof/Machine/Script.lean ====
section
/-! DEFINITION. Host programs: the script notation and the pseudo-instructions with their expansions (30_encoding.md R73, R74). -/

namespace Sys2Proof.Machine

/-- Carry out a host program, stopping at the first fault or refusal (10_state.md R31, 20_memory.md R50). -/
def runAll : List Instr → State → Result
  | [], s => .next s
  | i :: rest, s =>
    match exec i s with
    | .next t => runAll rest t
    | .fault f => .fault f
    | .refused r => .refused r

/-- `WRB sp, i, b0`, `WRB sp, i+1, b1`, and so on in that order (30_encoding.md R74). The rule does not bound the number
of operands and no `WRB` word has an index above 255; here an index above 255 is taken modulo 256 (DESIGN CHOICE: log 21). -/
def writesFrom (sp : Space) : Nat → List Byte → List Instr
  | _, [] => []
  | i, b :: bs => .wrb sp (BitVec.ofNat 8 i) b :: writesFrom sp (i + 1) bs

/-- The pseudo-instructions whose expansion is a fixed sequence of transactions (30_encoding.md R74). -/
inductive Pseudo where
  | cmd (c : Command)
  | ldp (bytes : List Byte)
  | ldrx (bytes : List Byte)
  | crcOf (bytes : List Byte)
  deriving DecidableEq, Repr

/-- `CMD c` is `WR CMD, <code of c>` (30_encoding.md R74). -/
def issueCommand (c : Command) : Instr := .wr .cmd ((commandCode c).setWidth 16)

/-- `WR DIN, b` then `CMD CRC.UPD`, for each byte in order (30_encoding.md R74). -/
def foldBytes : List Byte → List Instr
  | [] => []
  | b :: bs => .wr .din (b.setWidth 16) :: issueCommand .crcUpd :: foldBytes bs

/-- The expansion of a pseudo-instruction (30_encoding.md R74). For more than 255 operands of LDP or LDRX the last line
is an ill-formed `WR`, which no word stands for (DESIGN CHOICE: log 21). -/
def expand : Pseudo → List Instr
  | .cmd c => [issueCommand c]
  | .ldp bytes => writesFrom .pbuf 0 bytes ++ [.wr .plen (BitVec.ofNat 16 bytes.length)]
  | .ldrx bytes => writesFrom .rxbuf 0 bytes ++ [.wr .rxLen (BitVec.ofNat 16 bytes.length)]
  | .crcOf bytes => issueCommand .crcClr :: foldBytes bytes

/-- Go on with what a transaction left, or stop as it stopped. -/
def andThen (o : Result) (k : State → Result) : Result :=
  match o with
  | .next s => k s
  | .fault f => .fault f
  | .refused r => .refused r

/-- The number that the last transaction returned to the host. -/
def replyNumber (s : State) : Nat :=
  match s.reply with
  | .none => 0
  | .reg v => v.toNat
  | .byte b => b.toNat

/-- The part of LOOPBACK for `k` bytes from index `i` on: `RDB TXBUF, i` giving `b`, then `WRB RXBUF, i, b`
(30_encoding.md R74). -/
def copyBack : Nat → Nat → State → Result
  | _, 0, s => .next s
  | i, k + 1, s =>
    andThen (exec (.rdb .txbuf (BitVec.ofNat 8 i)) s) fun t =>
      andThen (exec (.wrb .rxbuf (BitVec.ofNat 8 i) (BitVec.ofNat 8 (replyNumber t))) t) fun u =>
        copyBack (i + 1) k u

/-- `LOOPBACK`: the host reads `TXLEN` giving `n`, copies `TXBUF[0 .. n-1]` to `RXBUF` byte by byte, and writes
`RXLEN`; what it writes depends on what it reads (30_encoding.md R74). -/
def loopback (s : State) : Result :=
  andThen (exec (.rd .txLen) s) fun t =>
    andThen (copyBack 0 (replyNumber t) t) fun u =>
      exec (.wr .rxLen (BitVec.ofNat 16 (replyNumber t))) u

/-- The name of a register in a script (10_state.md R10). -/
def regName : Reg → String
  | .cmd => "CMD" | .status => "STATUS" | .din => "DIN" | .crc => "CRC" | .syncVal => "SYNC_VAL"
  | .addrVal => "ADDR_VAL" | .opcode => "OPCODE" | .plen => "PLEN" | .txLen => "TXLEN" | .rxLen => "RXLEN"
  | .fSync => "F_SYNC" | .fAddr => "F_ADDR" | .fLen => "F_LEN" | .fCrc => "F_CRC" | .payLen => "PAY_LEN"

/-- The name of a buffer space in a script (30_encoding.md R73). -/
def spaceName : Space → String
  | .pbuf => "PBUF" | .txbuf => "TXBUF" | .rxbuf => "RXBUF"

/-- `WR <reg>, <value>` (30_encoding.md R73). -/
def wrLine (r : Reg) (d : Nat) : String := "WR " ++ regName r ++ ", " ++ toString d

/-- The line of a host program that stands for an instruction, in one of the five forms of 30_encoding.md R73; a link
frame has no line. -/
def scriptLine : Instr → Option String
  | .rd r => some ("RD " ++ regName r)
  | .wr r d => some (wrLine r d.toNat)
  | .rdb sp i => some ("RDB " ++ spaceName sp ++ ", " ++ toString i.toNat)
  | .wrb sp i b => some ("WRB " ++ spaceName sp ++ ", " ++ toString i.toNat ++ ", " ++ toString b.toNat)
  | .crcClr => some (wrLine .cmd (commandCode .crcClr).toNat)
  | .crcUpd => some (wrLine .cmd (commandCode .crcUpd).toNat)
  | .crcBuf => some (wrLine .cmd (commandCode .crcBuf).toNat)
  | .encode => some (wrLine .cmd (commandCode .encode).toNat)
  | .decode => some (wrLine .cmd (commandCode .decode).toNat)
  | .validate => some (wrLine .cmd (commandCode .validate).toNat)
  | .reservedCommand v => some (wrLine .cmd v.toNat)
  | .reset => some "RESET"
  | .frame _ _ _ => none
  | .frameAck _ _ => none
  | .frameNak _ _ => none

end Sys2Proof.Machine
end

