-- ==== Sys2Proof/Safety.lean ====
section
/-! DEFINITION. What counts as a legal state and a safe step, in the terms the statements use. -/

namespace Sys2Proof.Machine

/-- Every byte below `n` has been written since RESET (70_reset_and_hazards.md R164). -/
def Written (m : Memory) (n : Nat) : Prop := ∀ i, i < n → (m.read i).isSome = true

/-- The buffer holds the byte sequence `B` from index 0 on (00_scope.md section 6: `RXBUF[0 .. n-1]` = `B`). -/
def Holds (m : Memory) (B : List Byte) : Prop := ∀ i (h : i < B.length), m.read i = some B[i]

/-- The duty of 70_reset_and_hazards.md R164 for one command: it reads written bytes only. -/
def commandReadsWritten (c : Command) (s : State) : Prop :=
  match c with
  | .crcClr => True
  | .crcUpd => True
  | .crcBuf => Written s.rxbuf s.rxLen.toNat
  | .encode => s.plen.toNat ≤ maxParams → Written s.pbuf s.plen.toNat
  | .decode => fcb.minFrame ≤ s.rxLen.toNat → Written s.rxbuf s.rxLen.toNat
  | .validate => fcb.minFrame ≤ s.rxLen.toNat → Written s.rxbuf s.rxLen.toNat

/-- The duty of 70_reset_and_hazards.md R164 for one instruction: it reads written bytes only. -/
def readsWritten (i : Instr) (s : State) : Prop :=
  match i with
  | .rd _ => True
  | .wr r d => r = .cmd → ∀ c, commandOfCode (lowByte d) = some c → commandReadsWritten c s
  | .rdb sp a => (memRead sp a.toNat s).isSome = true
  | .wrb _ _ _ => True
  | .crcClr => commandReadsWritten .crcClr s
  | .crcUpd => commandReadsWritten .crcUpd s
  | .crcBuf => commandReadsWritten .crcBuf s
  | .encode => commandReadsWritten .encode s
  | .decode => commandReadsWritten .decode s
  | .validate => commandReadsWritten .validate s
  | .reservedCommand _ => True
  | .reset => True
  | .frame _ _ _ => True
  | .frameAck _ _ => True
  | .frameNak _ _ => True

/-- The three buffers are in canonical form. -/
def BuffersCanonical (s : State) : Prop := s.pbuf.wf ∧ s.txbuf.wf ∧ s.rxbuf.wf

/-- `ERR` holds no reserved value (30_encoding.md R72, 60_exceptions.md R140). -/
def ErrLegal (s : State) : Prop := s.err.toNat ≤ 6

/-- Invariant TX (10_state.md R34). -/
def TxInvariant (s : State) : Prop :=
  (s.txValid = true →
    ∃ f, txBytes s = .ok f ∧ 6 ≤ s.txLen.toNat ∧ f.getD 2 0#8 = s.txLen ∧
      crc16 fcb (f.take (s.txLen.toNat - 2)) =
        f.getD (s.txLen.toNat - 1) 0#8 ++ f.getD (s.txLen.toNat - 2) 0#8) ∧
  (s.txValid = false → s.txLen = 0#8)

/-- Invariant RX (10_state.md R35). -/
def RxInvariant (s : State) : Prop :=
  (s.fValid = true →
    ∃ B, rxBytes s = .ok B ∧ fcb.minFrame ≤ s.rxLen.toNat ∧ B.getD 2 0#8 = s.rxLen ∧
      crc16 fcb (B.take (s.rxLen.toNat - 2)) = s.fCrc ∧
      B.getD (s.rxLen.toNat - 1) 0#8 ++ B.getD (s.rxLen.toNat - 2) 0#8 = s.fCrc ∧
      s.fSync = B.getD 0 0#8 ∧ s.fAddr = B.getD 1 0#8 ∧ s.fLen = s.rxLen ∧
      s.payLen.toNat = s.rxLen.toNat - 5 ∧
      (s.cls = 1#2 → s.payLen = 1#8 ∧ B.getD 3 0#8 = 0x00#8) ∧
      (s.cls = 2#2 → s.payLen = 1#8 ∧ B.getD 3 0#8 = 0xFF#8) ∧
      (s.cls = 3#2 → ¬ (s.payLen = 1#8 ∧ (B.getD 3 0#8 = 0x00#8 ∨ B.getD 3 0#8 = 0xFF#8)))) ∧
  (s.fValid = false →
    s.cls = 0#2 ∧ s.fSync = 0#8 ∧ s.fAddr = 0#8 ∧ s.fLen = 0#8 ∧ s.fCrc = 0#16 ∧ s.payLen = 0#8)

/-- A legal state: what the rules promise of every reachable state. -/
def Legal (s : State) : Prop := BuffersCanonical s ∧ ErrLegal s ∧ TxInvariant s ∧ RxInvariant s

/-- The states a host can bring the block to: the state after RESET, what a step leaves, and the host issuing inputs,
which changes nothing but `inputs` (10_state.md R31, 60_exceptions.md R152). -/
inductive Reachable : State → Prop
  | reset : Reachable State.reset
  | issue (s : State) (is : List Input) : Reachable s → Reachable { s with inputs := is }
  | step (s t : State) : Reachable s → step s = .next t → Reachable t

end Sys2Proof.Machine
end

