-- ==== Sys2Proof/Certificates/Slice0/Obligations.lean ====
section
/-! DEFINITION. The statements about the block, for the provers. Each docstring names the rule it formalises. An equation `exec i s = .next t` gives the whole next state, so it is at once the result, the completion and the frame of the instruction. -/

open Sys2Proof Sys2Proof.Machine

/-! ## Encodings -/

/-- Words and link frames written out in 30_encoding.md (R64, R69, R70, R74) decode to the instructions they stand for. -/
def Obligations.SpecEncodingsDecode : Prop :=
  Sys2Proof.decode (.word 0x40000001#32) = .ok .crcClr ∧
  Sys2Proof.decode (.word 0x40000002#32) = .ok .crcUpd ∧
  Sys2Proof.decode (.word 0x40000003#32) = .ok .crcBuf ∧
  Sys2Proof.decode (.word 0x40000004#32) = .ok .encode ∧
  Sys2Proof.decode (.word 0x40000005#32) = .ok .decode ∧
  Sys2Proof.decode (.word 0x40000006#32) = .ok .validate ∧
  Sys2Proof.decode (.word 0x40000000#32) = .ok (.reservedCommand 0x00#8) ∧
  Sys2Proof.decode (.word 0x40000007#32) = .ok (.reservedCommand 0x07#8) ∧
  Sys2Proof.decode (.word 0x00010000#32) = .ok (.rd .status) ∧
  Sys2Proof.decode (.word 0x40090006#32) = .ok (.wr .rxLen 6#16) ∧
  Sys2Proof.decode (.word 0x90050000#32) = .ok (.rdb .txbuf 5#8) ∧
  Sys2Proof.decode (.word 0xE00300FF#32) = .ok (.wrb .rxbuf 3#8 0xFF#8) ∧
  Sys2Proof.decode (.word 0xC0000013#32) = .ok (.wrb .pbuf 0#8 0x13#8) ∧
  Sys2Proof.decode .reset = .ok .reset ∧
  Sys2Proof.decode (.frame [0x02#8, 0x03#8, 0x06#8, 0x00#8, 0xC2#8, 0x82#8]) = .ok (.frameAck 0x02#8 0x03#8) ∧
  Sys2Proof.decode (.frame [0x02#8, 0x03#8, 0x06#8, 0xFF#8, 0xBA#8, 0x8D#8]) = .ok (.frameNak 0x02#8 0x03#8)

/-- Decoding what the encoder writes for a well-formed instruction gives the instruction back: no operand bit is dropped. -/
def Obligations.DecodeOfEncodeIsIdentity : Prop :=
  ∀ i : Instr, i.wellFormed = true → Sys2Proof.decode (Sys2Proof.encode i) = .ok i

/-- Every input has at most one meaning: what the decoder accepts is well formed and is the encoder's own input for it. -/
def Obligations.EncodeOfDecodeIsIdentity : Prop :=
  ∀ (inp : Input) (i : Instr), Sys2Proof.decode inp = .ok i → i.wellFormed = true ∧ Sys2Proof.encode i = inp

/-- 30_encoding.md R68: the words that are refused are exactly the malformed ones, and the step refuses them. -/
def Obligations.MalformedWordsAreExactlyRefused : Prop :=
  ∀ (s : State) (w : Word) (rest : List Input), s.inputs = .word w :: rest →
    ((∃ why, step s = .refused (.malformed why)) ↔
      (w.extractLsb' 24 4 ≠ 0#4 ∨
       ((w.extractLsb' 30 2 = 0#2 ∨ w.extractLsb' 30 2 = 1#2) ∧ w.extractLsb' 28 2 ≠ 0#2) ∨
       ((w.extractLsb' 30 2 = 2#2 ∨ w.extractLsb' 30 2 = 3#2) ∧ w.extractLsb' 28 2 = 3#2) ∨
       ((w.extractLsb' 30 2 = 0#2 ∨ w.extractLsb' 30 2 = 2#2) ∧ w.extractLsb' 0 16 ≠ 0#16) ∨
       (w.extractLsb' 30 2 = 3#2 ∧ w.extractLsb' 8 8 ≠ 0#8) ∨
       (w.extractLsb' 30 2 = 1#2 ∧ (w.extractLsb' 16 8).toNat ≤ 0x0E ∧ w.extractLsb' 16 8 ≠ 0x03#8 ∧
         w.extractLsb' 16 8 ≠ 0x0D#8 ∧ w.extractLsb' 8 8 ≠ 0#8) ∨
       ((w.extractLsb' 30 2 = 0#2 ∨ w.extractLsb' 30 2 = 1#2) ∧ 0x0F ≤ (w.extractLsb' 16 8).toNat)))

/-! ## Steps -/

/-- A step runs the decoded instruction on the state that is left when the host's input is taken; `withFetchWord` makes
the instruction it is given the one the next step runs. -/
def Obligations.StepRunsTheDecodedInstruction : Prop :=
  (∀ (s : State) (inp : Input) (rest : List Input) (i : Instr), s.inputs = inp :: rest →
    Sys2Proof.decode inp = .ok i → step s = exec i { s with inputs := rest }) ∧
  (∀ (s : State) (nbits w : Nat) (i : Instr), Sys2Proof.decodeTableWord nbits w = some i →
    step (s.withFetchWord nbits w) = exec i s)

/-- With nothing issued by the host a step changes nothing (the model's reading of 60_exceptions.md R152: log 2). -/
def Obligations.StepWithoutInputChangesNothing : Prop :=
  ∀ s : State, s.inputs = [] → step s = .next s

/-- A well-formed instruction that reads only written bytes completes, and a fault names a byte of the instruction's
state that nothing has written (20_memory.md R54, 70_reset_and_hazards.md R164). -/
def Obligations.CompletesUnlessItReadsAnUnwrittenByte : Prop :=
  (∀ (i : Instr) (s : State), i.wellFormed = true → readsWritten i s → ∃ t, exec i s = .next t) ∧
  (∀ (i : Instr) (s : State) (f : Fault), exec i s = .fault f →
    ¬ readsWritten i s ∧ ∃ sp j, f = .unwrittenByte sp j ∧ memRead sp j s = none)

/-! ## Reset -/

/-- 10_state.md R36, 70_reset_and_hazards.md R160: what RESET leaves, from every state, and what the machine starts from. -/
def Obligations.ResetLeavesTheStatedValues : Prop :=
  ∀ s : State, ∃ t, exec .reset s = .next t ∧ exec .reset t = .next t ∧ TxInvariant t ∧ RxInvariant t ∧
    (∀ u : State, u = t ∨ u = State.reset →
      statusByte u = 0x00#8 ∧ u.err = 0#4 ∧ u.txValid = false ∧ u.fValid = false ∧ u.cls = 0#2 ∧
      u.din = 0x00#8 ∧ u.crc = 0x0000#16 ∧ u.syncVal = 0x02#8 ∧ u.addrVal = 0x03#8 ∧ u.opcode = 0x00#8 ∧
      u.plen = 0x00#8 ∧ u.txLen = 0x00#8 ∧ u.rxLen = 0x00#8 ∧ u.fSync = 0x00#8 ∧ u.fAddr = 0x00#8 ∧
      u.fLen = 0x00#8 ∧ u.fCrc = 0x0000#16 ∧ u.payLen = 0x00#8 ∧
      (∀ sp j, memRead sp j u = none))

/-- The state after RESET is legal: the first half of the invariant whose other half is `StepKeepsTheStateLegal`. -/
def Obligations.ResetStateIsLegal : Prop := Legal State.reset

/-! ## Host transactions -/

/-- 43_host_access.md R130: what `RD` returns for each register, that it changes nothing of the block, and its word. -/
def Obligations.RdReturnsTheRegister : Prop :=
  (∀ s : State,
    exec (.rd .cmd) s = .next { s with reply := .reg 0x0000#16 } ∧
    exec (.rd .status) s = .next { s with
      reply := .reg (0x00#8 ++ (s.cls ++ BitVec.ofBool s.fValid ++ BitVec.ofBool s.txValid ++ s.err)) } ∧
    exec (.rd .din) s = .next { s with reply := .reg (0x00#8 ++ s.din) } ∧
    exec (.rd .crc) s = .next { s with reply := .reg s.crc } ∧
    exec (.rd .syncVal) s = .next { s with reply := .reg (0x00#8 ++ s.syncVal) } ∧
    exec (.rd .addrVal) s = .next { s with reply := .reg (0x00#8 ++ s.addrVal) } ∧
    exec (.rd .opcode) s = .next { s with reply := .reg (0x00#8 ++ s.opcode) } ∧
    exec (.rd .plen) s = .next { s with reply := .reg (0x00#8 ++ s.plen) } ∧
    exec (.rd .txLen) s = .next { s with reply := .reg (0x00#8 ++ s.txLen) } ∧
    exec (.rd .rxLen) s = .next { s with reply := .reg (0x00#8 ++ s.rxLen) } ∧
    exec (.rd .fSync) s = .next { s with reply := .reg (0x00#8 ++ s.fSync) } ∧
    exec (.rd .fAddr) s = .next { s with reply := .reg (0x00#8 ++ s.fAddr) } ∧
    exec (.rd .fLen) s = .next { s with reply := .reg (0x00#8 ++ s.fLen) } ∧
    exec (.rd .fCrc) s = .next { s with reply := .reg s.fCrc } ∧
    exec (.rd .payLen) s = .next { s with reply := .reg (0x00#8 ++ s.payLen) }) ∧
  (∀ r : Reg, Sys2Proof.decode (.word (0x00000000#32 ||| (regNum r).setWidth 32 <<< 16)) = .ok (.rd r)) ∧
  (∀ a : Byte, 0x0F ≤ a.toNat → ∃ e, Sys2Proof.decode (.word (a.setWidth 32 <<< 16)) = .error e)

/-- 43_host_access.md R131: what `WR` does for each register, the ignored writes, and its word. -/
def Obligations.WrWritesTheRegister : Prop :=
  (∀ (d : Half) (s : State),
    exec (.wr .cmd d) s = exec (Sys2Proof.decodeCommand (d.extractLsb' 0 8)) s ∧
    exec (.wr .din d) s = .next { s with din := d.extractLsb' 0 8, reply := .none } ∧
    exec (.wr .syncVal d) s = .next { s with syncVal := d.extractLsb' 0 8, reply := .none } ∧
    exec (.wr .addrVal d) s = .next { s with addrVal := d.extractLsb' 0 8, reply := .none } ∧
    exec (.wr .opcode d) s = .next { s with opcode := d.extractLsb' 0 8, reply := .none } ∧
    exec (.wr .plen d) s = .next { s with plen := d.extractLsb' 0 8, reply := .none } ∧
    exec (.wr .rxLen d) s = .next { s with
      rxLen := d.extractLsb' 0 8, fValid := false, cls := 0#2, fSync := 0#8, fAddr := 0#8, fLen := 0#8,
      fCrc := 0#16, payLen := 0#8, reply := .none } ∧
    (∀ r : Reg, r ∈ [Reg.status, .crc, .txLen, .fSync, .fAddr, .fLen, .fCrc, .payLen] →
      exec (.wr r d) s = .next { s with reply := .none })) ∧
  (∀ (r : Reg) (d : Half), r ≠ .cmd → (r = .crc ∨ r = .fCrc ∨ d.toNat < 256) →
    Sys2Proof.decode (.word (0x40000000#32 ||| (regNum r).setWidth 32 <<< 16 ||| d.setWidth 32)) = .ok (.wr r d))

/-- 43_host_access.md R134: the seven cases of a `WR` to `CMD`. Every case writes `ERR` and none reads it, so the outcome
is the same whatever `ERR` held. -/
def Obligations.WrCmdDispatchesTheCommand : Prop :=
  ∀ (d : Half) (s : State),
    (d.extractLsb' 0 8 = 0x01#8 → exec (.wr .cmd d) s = exec .crcClr s) ∧
    (d.extractLsb' 0 8 = 0x02#8 → exec (.wr .cmd d) s = exec .crcUpd s) ∧
    (d.extractLsb' 0 8 = 0x03#8 → exec (.wr .cmd d) s = exec .crcBuf s) ∧
    (d.extractLsb' 0 8 = 0x04#8 → exec (.wr .cmd d) s = exec .encode s) ∧
    (d.extractLsb' 0 8 = 0x05#8 → exec (.wr .cmd d) s = exec .decode s) ∧
    (d.extractLsb' 0 8 = 0x06#8 → exec (.wr .cmd d) s = exec .validate s) ∧
    ((d.extractLsb' 0 8 = 0x00#8 ∨ 0x07 ≤ (d.extractLsb' 0 8).toNat) →
      exec (.wr .cmd d) s = .next { s with err := 6#4, reply := .none }) ∧
    (∀ e : BitVec 4, exec (.wr .cmd d) { s with err := e } = exec (.wr .cmd d) s)

/-- 60_exceptions.md R146, 30_encoding.md R70: a reserved command code sets `ERR` to 6 and changes nothing else. -/
def Obligations.IllegalCommandSetsOnlyErr : Prop :=
  ∀ (v : Byte) (s : State), (v = 0x00#8 ∨ 0x07 ≤ v.toNat) →
    exec (.reservedCommand v) s = .next { s with err := 6#4, reply := .none } ∧
    exec (.wr .cmd (v.setWidth 16)) s = .next { s with err := 6#4, reply := .none } ∧
    Sys2Proof.decode (.word (0x40000000#32 ||| v.setWidth 32)) = .ok (.reservedCommand v)

/-- 43_host_access.md R132: `RDB` returns the byte, in every space at every index, and changes nothing of the block. -/
def Obligations.RdbReturnsTheByte : Prop :=
  (∀ (sp : Space) (i b : Byte) (s : State),
    (match sp with | .pbuf => s.pbuf | .txbuf => s.txbuf | .rxbuf => s.rxbuf).read i.toNat = some b →
      exec (.rdb sp i) s = .next { s with reply := .byte b }) ∧
  (∀ i : Byte,
    Sys2Proof.decode (.word (0x80000000#32 ||| i.setWidth 32 <<< 16)) = .ok (.rdb .pbuf i) ∧
    Sys2Proof.decode (.word (0x90000000#32 ||| i.setWidth 32 <<< 16)) = .ok (.rdb .txbuf i) ∧
    Sys2Proof.decode (.word (0xA0000000#32 ||| i.setWidth 32 <<< 16)) = .ok (.rdb .rxbuf i) ∧
    ∃ e, Sys2Proof.decode (.word (0xB0000000#32 ||| i.setWidth 32 <<< 16)) = .error e)

/-- 43_host_access.md R133: `WRB` writes one byte of `PBUF` or `RXBUF`, withdraws the decode result for `RXBUF`, and is
ignored for `TXBUF`. -/
def Obligations.WrbWritesTheByte : Prop :=
  (∀ (i b : Byte) (s : State),
    (∃ m : Memory, exec (.wrb .pbuf i b) s = .next { s with pbuf := m, reply := .none } ∧
      ∀ j, m.read j = if j = i.toNat then some b else s.pbuf.read j) ∧
    exec (.wrb .txbuf i b) s = .next { s with reply := .none } ∧
    (∃ m : Memory, exec (.wrb .rxbuf i b) s = .next { s with
        rxbuf := m, fValid := false, cls := 0#2, fSync := 0#8, fAddr := 0#8, fLen := 0#8, fCrc := 0#16,
        payLen := 0#8, reply := .none } ∧
      ∀ j, m.read j = if j = i.toNat then some b else s.rxbuf.read j)) ∧
  (∀ i b : Byte,
    Sys2Proof.decode (.word (0xC0000000#32 ||| i.setWidth 32 <<< 16 ||| b.setWidth 32)) = .ok (.wrb .pbuf i b) ∧
    Sys2Proof.decode (.word (0xD0000000#32 ||| i.setWidth 32 <<< 16 ||| b.setWidth 32)) = .ok (.wrb .txbuf i b) ∧
    Sys2Proof.decode (.word (0xE0000000#32 ||| i.setWidth 32 <<< 16 ||| b.setWidth 32)) = .ok (.wrb .rxbuf i b) ∧
    ∃ e, Sys2Proof.decode (.word (0xF0000000#32 ||| i.setWidth 32 <<< 16 ||| b.setWidth 32)) = .error e)

/-- 20_memory.md R54: RESET marks every byte unwritten, `WRB` and `ENCODE` mark written, and a read of an unwritten byte,
by the host or by a command, is a fault of the model. -/
def Obligations.UnwrittenBytesFaultWhenRead : Prop :=
  (∀ s t : State, exec .reset s = .next t → ∀ sp j, memRead sp j t = none) ∧
  (∀ (i b : Byte) (s t : State), exec (.wrb .pbuf i b) s = .next t → (t.pbuf.read i.toNat).isSome = true) ∧
  (∀ (i b : Byte) (s t : State), exec (.wrb .rxbuf i b) s = .next t → (t.rxbuf.read i.toNat).isSome = true) ∧
  (∀ s t : State, s.plen.toNat ≤ 249 → exec .encode s = .next t → Written t.txbuf t.txLen.toNat) ∧
  (∀ (sp : Space) (i : Byte) (s : State), memRead sp i.toNat s = none →
    exec (.rdb sp i) s = .fault (.unwrittenByte sp i.toNat)) ∧
  (∀ s : State, s.plen.toNat ≤ 249 → (∃ i, i < s.plen.toNat ∧ s.pbuf.read i = none) →
    ∃ f, exec .encode s = .fault f) ∧
  (∀ s : State, (∃ i, i < s.rxLen.toNat ∧ s.rxbuf.read i = none) →
    (∃ f, exec .crcBuf s = .fault f) ∧
    (6 ≤ s.rxLen.toNat → (∃ f, exec .decode s = .fault f) ∧ ∃ f, exec .validate s = .fault f))

/-- 20_memory.md R48, its sentences on reads and on idempotence: `RD` and `RDB` change nothing of the block, a write other
than to `CMD` done twice is the same as done once, and a write to `CMD` is not so in general. What each write changes is
said by `WrWritesTheRegister` and `WrbWritesTheByte`. -/
def Obligations.ReadsChangeNothingAndWritesButCmdAreIdempotent : Prop :=
  (∀ (r : Reg) (s t : State), exec (.rd r) s = .next t → t = { s with reply := t.reply }) ∧
  (∀ (sp : Space) (i : Byte) (s t : State), exec (.rdb sp i) s = .next t → t = { s with reply := t.reply }) ∧
  (∀ (r : Reg) (d : Half) (s t : State), r ≠ .cmd → exec (.wr r d) s = .next t → exec (.wr r d) t = .next t) ∧
  (∀ (sp : Space) (i b : Byte) (s t : State), exec (.wrb sp i b) s = .next t → exec (.wrb sp i b) t = .next t) ∧
  (∃ s t u : State, exec (.wr .cmd 0x0002#16) s = .next t ∧ exec (.wr .cmd 0x0002#16) t = .next u ∧ t.crc ≠ u.crc)

/-! ## The flags -/

/-- 10_state.md R12: the layout of `STATUS`. -/
def Obligations.StatusPacksTheFourFields : Prop :=
  (∀ s : State, ∃ v : Half, exec (.rd .status) s = .next { s with reply := .reg v } ∧
    v.extractLsb' 0 4 = s.err ∧ v.getLsbD 4 = s.txValid ∧ v.getLsbD 5 = s.fValid ∧ v.extractLsb' 6 2 = s.cls ∧
    v.extractLsb' 8 8 = 0#8) ∧
  (∀ (d : Half) (s : State), exec (.wr .status d) s = .next { s with reply := .none }) ∧
  statusByte State.reset = 0x00#8

/-- 10_state.md R13, 60_exceptions.md R150: `ERR` is changed by commands and by RESET only. -/
def Obligations.ErrChangesOnlyByCommandOrReset : Prop :=
  ∀ (i : Instr) (s t : State), exec i s = .next t → t.err ≠ s.err →
    i ∈ [Instr.crcClr, .crcUpd, .crcBuf, .encode, .decode, .validate, .reset] ∨
      (∃ d, i = .wr .cmd d) ∨ ∃ v, i = .reservedCommand v

/-- 10_state.md R14: what sets and clears `TXVALID`, and that nothing else changes it or `TXLEN` or `TXBUF`. -/
def Obligations.TransmitSideChangesOnlyByEncodeOrReset : Prop :=
  (∀ s t : State, exec .encode s = .next t → (t.txValid = true ↔ s.plen.toNat ≤ 249) ∧ (t.err = 0#4 ↔ s.plen.toNat ≤ 249)) ∧
  (∀ s t : State, exec .reset s = .next t → t.txValid = false) ∧
  (∀ (i : Instr) (s t : State), exec i s = .next t → i ≠ .encode → i ≠ .reset →
    (∀ d : Half, i = .wr .cmd d → d.extractLsb' 0 8 ≠ 0x04#8) →
    t.txValid = s.txValid ∧ t.txLen = s.txLen ∧ t.txbuf = s.txbuf)

/-- 10_state.md R15, R16, R25 to R27: the decode result (`FVALID`, `CLASS`, the frame registers and `PAY_LEN`) is changed
only by `DECODE`, `VALIDATE`, writes of `RXLEN` and `RXBUF`, and RESET; link frames are writes of both (log 6). -/
def Obligations.DecodeResultStaysUntilWithdrawn : Prop :=
  ∀ (i : Instr) (s t : State), exec i s = .next t →
    i ≠ .decode → i ≠ .validate → i ≠ .reset →
    (∀ d : Half, i = .wr .cmd d → d.extractLsb' 0 8 ≠ 0x05#8 ∧ d.extractLsb' 0 8 ≠ 0x06#8) →
    (∀ d, i ≠ .wr .rxLen d) → (∀ a b, i ≠ .wrb .rxbuf a b) →
    (∀ a b d, i ≠ .frame a b d) → (∀ a b, i ≠ .frameAck a b) → (∀ a b, i ≠ .frameNak a b) →
    t.fValid = s.fValid ∧ t.cls = s.cls ∧ t.fSync = s.fSync ∧ t.fAddr = s.fAddr ∧ t.fLen = s.fLen ∧
      t.fCrc = s.fCrc ∧ t.payLen = s.payLen ∧ t.rxLen = s.rxLen ∧ t.rxbuf = s.rxbuf

/-- 10_state.md R27: exactly what `InvalidateFrame()` does, and the four places it runs in. -/
def Obligations.InvalidateFrameClearsSevenLocations : Prop :=
  ∀ s : State,
    invalidateFrame s = { s with
      fValid := false, cls := 0#2, fSync := 0#8, fAddr := 0#8, fLen := 0#8, fCrc := 0#16, payLen := 0#8 } ∧
    exec .decode (invalidateFrame s) = exec .decode s ∧
    exec .validate (invalidateFrame s) = exec .validate s ∧
    (∀ d t, exec (.wr .rxLen d) s = .next t → invalidateFrame t = t) ∧
    (∀ a b t, exec (.wrb .rxbuf a b) s = .next t → invalidateFrame t = t) ∧
    (∀ t, exec .reset s = .next t → invalidateFrame t = t)

/-- 10_state.md R17, R19 to R22, R28: the registers the host alone writes, and `PBUF`, which the block never writes. The
last clause, on `inputs`, is about the model's own field and is the model's choice (log 2). -/
def Obligations.HostOwnedStateChangesOnlyByItsOwnWrite : Prop :=
  ∀ (i : Instr) (s t : State), exec i s = .next t → i ≠ .reset →
    ((∀ d, i ≠ .wr .din d) → t.din = s.din) ∧
    ((∀ d, i ≠ .wr .syncVal d) → t.syncVal = s.syncVal) ∧
    ((∀ d, i ≠ .wr .addrVal d) → t.addrVal = s.addrVal) ∧
    ((∀ d, i ≠ .wr .opcode d) → t.opcode = s.opcode) ∧
    ((∀ d, i ≠ .wr .plen d) → t.plen = s.plen) ∧
    ((∀ a b, i ≠ .wrb .pbuf a b) → t.pbuf = s.pbuf) ∧
    t.inputs = s.inputs

/-- 10_state.md R18: `CRC` is written by the six commands only, not by a failing `ENCODE`, not by a `DECODE` or
`VALIDATE` that ends in `TooShort`, not by a reserved code. -/
def Obligations.CrcChangesOnlyByAComputingCommand : Prop :=
  ∀ (i : Instr) (s t : State), exec i s = .next t → t.crc ≠ s.crc →
    i = .crcClr ∨ i = .crcUpd ∨ i = .crcBuf ∨ i = .reset ∨
    (i = .encode ∧ t.err = 0#4) ∨ ((i = .decode ∨ i = .validate) ∧ t.err ≠ 1#4) ∨
    (∃ d, i = .wr .cmd d ∧ t.err ≠ 1#4 ∧ t.err ≠ 5#4 ∧ t.err ≠ 6#4)

/-! ## The CRC unit -/

/-- 40_crc.md R80: `crc_step`, written as the rule's eight iterations. -/
def Obligations.CrcStepIsEightShifts : Prop :=
  ∀ (c : Half) (b : Byte), crcStep fcb c b =
    (fun x : Half => if x &&& 1#16 = 1#16 then (x >>> 1) ^^^ 0x8408#16 else x >>> 1)^[8] (c ^^^ (0#8 ++ b))

/-- 40_crc.md R81: `crc16` folds the bytes in order from `CRC_INIT`; the check value of the parameter set. -/
def Obligations.CrcFoldsBytesInOrder : Prop :=
  crc16 fcb [] = 0x0000#16 ∧
  (∀ (s : List Byte) (b : Byte), crc16 fcb (s ++ [b]) = crcStep fcb (crc16 fcb s) b) ∧
  crc16 fcb [0x31#8, 0x32#8, 0x33#8, 0x34#8, 0x35#8, 0x36#8, 0x37#8, 0x38#8, 0x39#8] = 0x2189#16

/-- 40_crc.md R86: the table form. -/
def Obligations.CrcStepHasTableForm : Prop :=
  (∀ (c : Half) (b : Byte),
    crcStep fcb c b = (c >>> 8) ^^^ crcStep fcb 0#16 ((c ^^^ (0#8 ++ b)).extractLsb' 0 8)) ∧
  ([0x00#8, 0x01#8, 0x02#8, 0x03#8, 0x04#8, 0x05#8, 0x06#8, 0x07#8, 0x80#8, 0xFF#8].map (crcStep fcb 0#16)) =
    [0x0000#16, 0x1189#16, 0x2312#16, 0x329B#16, 0x4624#16, 0x57AD#16, 0x6536#16, 0x74BF#16, 0x8408#16, 0x0F78#16]

/-- 40_crc.md R87: linearity, its consequences for sequences, and that a fold of a fixed byte is a bijection. -/
def Obligations.CrcIsLinear : Prop :=
  (∀ (c₁ c₂ : Half) (b₁ b₂ : Byte),
    crcStep fcb (c₁ ^^^ c₂) (b₁ ^^^ b₂) = crcStep fcb c₁ b₁ ^^^ crcStep fcb c₂ b₂) ∧
  crcStep fcb 0#16 0#8 = 0#16 ∧
  (∀ s t : List Byte, s.length = t.length →
    crc16 fcb (List.zipWith (· ^^^ ·) s t) = crc16 fcb s ^^^ crc16 fcb t) ∧
  (∀ s : List Byte, crc16 fcb (0#8 :: s) = crc16 fcb s) ∧
  (∀ k : Nat, crc16 fcb (List.replicate k 0#8) = 0#16) ∧
  (∀ b : Byte, Function.Bijective fun c : Half => crcStep fcb c b)

/-- 40_crc.md R88: the checksum of a sequence with its own trailer is zero, for every `CRC_INIT` (and every generator);
with the block's parameters it is zero for no other two trailer bytes, so testing for zero is recompute-and-compare. -/
def Obligations.CrcOfMessageWithTrailerIsZero : Prop :=
  (∀ (p : Config) (m : List Byte),
    crc16 p (m ++ [(crc16 p m).extractLsb' 0 8, (crc16 p m).extractLsb' 8 8]) = 0#16) ∧
  (∀ (m : List Byte) (x y : Byte), crc16 fcb (m ++ [x, y]) = 0#16 ↔ crc16 fcb m = y ++ x)

/-- 40_crc.md R89: the two facts about `crc_step`, and that a change of any one byte of a well-formed frame fails the
trailer check. -/
def Obligations.CrcDetectsAnyChangedByte : Prop :=
  (∀ d : Byte, d ≠ 0#8 → crcStep fcb 0#16 d ≠ 0#16) ∧
  (Function.Bijective fun c : Half => crcStep fcb c 0#8) ∧ crcStep fcb 0#16 0#8 = 0#16 ∧
  (∀ (f : List Byte) (F : Frame) (k : Nat) (x : Byte), decodeFrame fcb f = .ok F → k < f.length → x ≠ f.getD k 0#8 →
    crc16 fcb ((f.set k x).take (f.length - 2)) ≠
      (f.set k x).getD (f.length - 1) 0#8 ++ (f.set k x).getD (f.length - 2) 0#8)

/-- 40_crc.md R90: `crc16` of a concatenation, and the two ways of computing it on the block (CRCOF of
30_encoding.md R74 against `CRC.BUF`). -/
def Obligations.CrcByteByByteEqualsCrcOfBuffer : Prop :=
  (∀ s t : List Byte, crc16 fcb (s ++ t) = t.foldl (crcStep fcb) (crc16 fcb s)) ∧
  (∀ (bytes : List Byte) (s : State), ∃ t, runAll (expand (.crcOf bytes)) s = .next t ∧ t.crc = crc16 fcb bytes ∧
    t.err = 0#4) ∧
  (∀ (bytes : List Byte) (s : State), s.rxLen.toNat = bytes.length → Holds s.rxbuf bytes →
    ∃ t, exec .crcBuf s = .next t ∧ t.crc = crc16 fcb bytes)

/-- 40_crc.md R82: `CRC.CLR`. -/
def Obligations.CrcClrClearsTheAccumulator : Prop :=
  Sys2Proof.decode (.word 0x40000001#32) = .ok .crcClr ∧
  ∀ s : State, exec .crcClr s = .next { s with crc := 0x0000#16, err := 0#4, reply := .none }

/-- 40_crc.md R83: `CRC.UPD`; its example. -/
def Obligations.CrcUpdFoldsOneByte : Prop :=
  Sys2Proof.decode (.word 0x40000002#32) = .ok .crcUpd ∧
  (∀ s : State, exec .crcUpd s = .next { s with crc := crcStep fcb s.crc s.din, err := 0#4, reply := .none }) ∧
  crcStep fcb 0x0000#16 0x00#8 = 0x0000#16 ∧ crcStep fcb 0x0000#16 0x02#8 = 0x2312#16

/-- 40_crc.md R84: `CRC.BUF`, for every length 0 to 255; over a well-formed frame it gives 0. -/
def Obligations.CrcBufChecksumsTheReceiveBuffer : Prop :=
  Sys2Proof.decode (.word 0x40000003#32) = .ok .crcBuf ∧
  (∀ (s : State) (B : List Byte), B.length = s.rxLen.toNat → Holds s.rxbuf B →
    exec .crcBuf s = .next { s with crc := crc16 fcb B, err := 0#4, reply := .none }) ∧
  (∀ s : State, s.rxLen = 0#8 → exec .crcBuf s = .next { s with crc := 0x0000#16, err := 0#4, reply := .none }) ∧
  (∀ (B : List Byte) (F : Frame), decodeFrame fcb B = .ok F → crc16 fcb B = 0x0000#16)

/-! ## The encoder -/

/-- 41_encode.md R100: the function `encode`, on its domain and outside it. -/
def Obligations.EncodeFunctionAssemblesTheFrame : Prop :=
  (∀ (sync address opcode : Byte) (params : List Byte), params.length ≤ 249 →
    ∃ (n : Byte) (body f : List Byte) (c : Half), n.toNat = 6 + params.length ∧
      body = [sync, address, n, opcode] ++ params ∧ body.length = n.toNat - 2 ∧ c = crc16 fcb body ∧
      f = body ++ [c.extractLsb' 0 8, c.extractLsb' 8 8] ∧ f.length = n.toNat ∧ 6 ≤ f.length ∧ f.length ≤ 255 ∧
      encodeFrame fcb sync address opcode params = some f) ∧
  (∀ (sync address opcode : Byte) (params : List Byte), 249 < params.length →
    encodeFrame fcb sync address opcode params = none)

/-- 41_encode.md R101: `ENCODE`, both exits: every register and every byte of `TXBUF` after it. -/
def Obligations.EncodeBuildsTheRequestFrame : Prop :=
  Sys2Proof.decode (.word 0x40000004#32) = .ok .encode ∧
  (∀ s : State, 249 < s.plen.toNat →
    exec .encode s = .next { s with txValid := false, txLen := 0#8, err := 5#4, reply := .none }) ∧
  (∀ (s : State) (params : List Byte), params.length = s.plen.toNat → s.plen.toNat ≤ 249 → Holds s.pbuf params →
    ∃ (m : Memory) (f : List Byte), encodeFrame fcb s.syncVal s.addrVal s.opcode params = some f ∧
      exec .encode s = .next { s with
        txbuf := m, txLen := BitVec.ofNat 8 (6 + s.plen.toNat), crc := crc16 fcb (f.take (f.length - 2)),
        txValid := true, err := 0#4, reply := .none } ∧
      ∀ j, m.read j = if j < 6 + s.plen.toNat then some (f.getD j 0#8) else s.txbuf.read j)

/-- 10_state.md R33: `ENCODE` leaves the Command as it was, and a second one with nothing written between builds the same
frame again. -/
def Obligations.SecondEncodeBuildsTheSameFrame : Prop :=
  ∀ s t : State, BuffersCanonical s → exec .encode s = .next t →
    t.opcode = s.opcode ∧ t.plen = s.plen ∧ t.pbuf = s.pbuf ∧ exec .encode t = .next t

/-- 41_encode.md R103: every frame `ENCODE` builds is well-formed, and `DECODE` of a copy of it succeeds. -/
def Obligations.EncodedFramesAreWellFormed : Prop :=
  ∀ s t : State, s.plen.toNat ≤ 249 → exec .encode s = .next t →
    ∃ f : List Byte, Holds t.txbuf f ∧ f.length = t.txLen.toNat ∧ (f.getD 2 0#8).toNat = f.length ∧
      6 ≤ f.length ∧ f.length ≤ 255 ∧
      crc16 fcb (f.take (f.length - 2)) = f.getD (f.length - 1) 0#8 ++ f.getD (f.length - 2) 0#8 ∧
      ∀ u : State, u.rxLen = t.txLen → Holds u.rxbuf f → ∃ v, exec .decode u = .next v ∧ v.fValid = true

/-! ## The decoder and the validator -/

/-- 42_decode_validate.md R110: the function `decode`, step by step in its order. -/
def Obligations.DecodeFunctionChecksInOrder : Prop :=
  ∀ (B : List Byte) (n : Nat) (c t : Half), n = B.length → n ≤ 255 → c = crc16 fcb (B.take (n - 2)) →
    t = B.getD (n - 1) 0#8 ++ B.getD (n - 2) 0#8 →
    (n < 6 → decodeFrame fcb B = .error .tooShort) ∧
    (6 ≤ n → c ≠ t → decodeFrame fcb B = .error .badChecksum) ∧
    (6 ≤ n → c = t → (B.getD 2 0#8).toNat ≠ n → decodeFrame fcb B = .error .badLength) ∧
    (6 ≤ n → c = t → (B.getD 2 0#8).toNat = n → ∃ F : Frame, decodeFrame fcb B = .ok F ∧
      F.sync = B.getD 0 0#8 ∧ F.address = B.getD 1 0#8 ∧ F.length = B.getD 2 0#8 ∧ F.crc16 = t ∧
      F.data.length = n - 5 ∧ ∀ j, j < n - 5 → F.data.getD j 0#8 = B.getD (3 + j) 0#8)

/-- 42_decode_validate.md R113: the three payload classes. -/
def Obligations.ClassifyNamesAckNakData : Prop :=
  ∀ data : List Byte,
    (classify data = .ack ↔ data = [0x00#8]) ∧ (classify data = .nak ↔ data = [0xFF#8]) ∧
    (classify data = .data ↔ data ≠ [0x00#8] ∧ data ≠ [0xFF#8])

/-- 42_decode_validate.md R111: `DECODE`, every exit, every register after it. -/
def Obligations.DecodeReportsTheFrameOrTheError : Prop :=
  Sys2Proof.decode (.word 0x40000005#32) = .ok .decode ∧
  (∀ s : State, s.rxLen.toNat < 6 → exec .decode s = .next { s with
      fValid := false, cls := 0#2, fSync := 0#8, fAddr := 0#8, fLen := 0#8, fCrc := 0#16, payLen := 0#8,
      err := 1#4, reply := .none }) ∧
  (∀ (s : State) (B : List Byte) (n : Nat) (c t : Half), n = s.rxLen.toNat → 6 ≤ n → B.length = n →
    Holds s.rxbuf B → c = crc16 fcb (B.take (n - 2)) → t = B.getD (n - 1) 0#8 ++ B.getD (n - 2) 0#8 →
    (c ≠ t → exec .decode s = .next { s with
      fValid := false, cls := 0#2, fSync := 0#8, fAddr := 0#8, fLen := 0#8, fCrc := 0#16, payLen := 0#8,
      crc := c, err := 2#4, reply := .none }) ∧
    (c = t → (B.getD 2 0#8).toNat ≠ n → exec .decode s = .next { s with
      fValid := false, cls := 0#2, fSync := 0#8, fAddr := 0#8, fLen := 0#8, fCrc := 0#16, payLen := 0#8,
      crc := c, err := 3#4, reply := .none }) ∧
    (c = t → (B.getD 2 0#8).toNat = n → exec .decode s = .next { s with
      fSync := B.getD 0 0#8, fAddr := B.getD 1 0#8, fLen := B.getD 2 0#8, fCrc := t,
      payLen := BitVec.ofNat 8 (n - 5), fValid := true, cls := 0#2, crc := c, err := 0#4, reply := .none }))

/-- 42_decode_validate.md R114: `VALIDATE` is `DECODE` where `DECODE` fails; on a well-formed frame it adds the class, and
`DeviceNAK` for a NAK. -/
def Obligations.ValidateClassifiesTheDecodedFrame : Prop :=
  Sys2Proof.decode (.word 0x40000006#32) = .ok .validate ∧
  (∀ s : State, s.rxLen.toNat < 6 → exec .validate s = exec .decode s ∧ ∃ u, exec .decode s = .next u) ∧
  (∀ (s : State) (B : List Byte), 6 ≤ s.rxLen.toNat → B.length = s.rxLen.toNat → Holds s.rxbuf B →
    ∃ u, exec .decode s = .next u ∧
      (∀ e, decodeFrame fcb B = .error e → u.err = errCode e ∧ u.fValid = false ∧ exec .validate s = .next u) ∧
      (∀ F, decodeFrame fcb B = .ok F → u.err = 0#4 ∧ u.fValid = true ∧
        (F.data = [0x00#8] → exec .validate s = .next { u with cls := 1#2, err := 0#4 }) ∧
        (F.data = [0xFF#8] → exec .validate s = .next { u with cls := 2#2, err := 4#4 }) ∧
        (F.data ≠ [0x00#8] → F.data ≠ [0xFF#8] → exec .validate s = .next { u with cls := 3#2, err := 0#4 })))

/-- The commands `DECODE` and `VALIDATE` refine the pure functions `decode` and `classify` of
42_decode_validate.md R110 and R113: the frame registers are the Frame's fields, the payload is read in place. -/
def Obligations.DecodeCommandsRefineTheFunctions : Prop :=
  ∀ (s : State) (B : List Byte), B.length = s.rxLen.toNat → Holds s.rxbuf B →
    ∃ d v, exec .decode s = .next d ∧ exec .validate s = .next v ∧
      match decodeFrame fcb B with
      | .error e => d.err = errCode e ∧ v = d ∧ invalidateFrame d = d
      | .ok F =>
        d.err = 0#4 ∧ d.cls = 0#2 ∧ v.cls = classCode (classify F.data) ∧
        v.err = (if classify F.data = .nak then errCode .deviceNak else 0#4) ∧
        ∀ u, u = d ∨ u = v →
          u.fValid = true ∧ u.fSync = F.sync ∧ u.fAddr = F.address ∧ u.fLen = F.length ∧ u.fCrc = F.crc16 ∧
          u.crc = F.crc16 ∧ u.payLen.toNat = F.data.length ∧
          ∀ j, j < F.data.length → u.rxbuf.read (3 + j) = some (F.data.getD j 0#8)

/-- 42_decode_validate.md R115, its last sentence read as one about the outcome of `DECODE` and `VALIDATE` (log 18): a
`VALIDATE` that ends in `DeviceNAK` leaves the frame valid, and no other outcome of the two has an error and a valid frame
together. -/
def Obligations.NakLeavesAValidFrame : Prop :=
  (∀ s t : State, exec .validate s = .next t → t.err = 4#4 →
    t.fValid = true ∧ t.payLen = 1#8 ∧ t.crc = t.fCrc ∧ t.cls = 2#2 ∧ t.fLen = s.rxLen ∧
      s.rxbuf.read 0 = some t.fSync ∧ s.rxbuf.read 1 = some t.fAddr ∧ s.rxbuf.read 3 = some 0xFF#8) ∧
  (∀ s t : State, exec .validate s = .next t → t.err ≠ 0#4 → t.fValid = true → t.err = 4#4) ∧
  (∀ s t : State, exec .decode s = .next t → (t.err = 0#4 ↔ t.fValid = true))

/-- 60_exceptions.md R149: errors are precise. A command that ends in an error leaves every buffer as it was, a failing
`DECODE` or `VALIDATE` no valid frame (but for the NAK of R115), a failing `ENCODE` no valid encoded frame. -/
def Obligations.ErrorsArePrecise : Prop :=
  ∀ (i : Instr) (s t : State),
    i ∈ [Instr.crcClr, .crcUpd, .crcBuf, .encode, .decode, .validate] ∨ (∃ v, i = .reservedCommand v) →
    exec i s = .next t → t.err ≠ 0#4 →
      t.pbuf = s.pbuf ∧ t.txbuf = s.txbuf ∧ t.rxbuf = s.rxbuf ∧
      (i = .encode → t.txValid = false ∧ t.txLen = 0#8 ∧ t.crc = s.crc) ∧
      (i = .decode ∨ (i = .validate ∧ t.err ≠ 4#4) → invalidateFrame t = t)

/-- 42_decode_validate.md R118: the received sync and address bytes are not compared with `SYNC_VAL` and `ADDR_VAL`: the
outcome does not depend on those registers, a frame with any two header bytes decodes, and damage to one of them is
caught by the checksum. -/
def Obligations.DecodeIgnoresSyncAndAddressRegisters : Prop :=
  (∀ (s : State) (x y : Byte) (i : Instr), i = .decode ∨ i = .validate →
    exec i { s with syncVal := x, addrVal := y } =
      match exec i s with
      | .next t => .next { t with syncVal := x, addrVal := y }
      | .fault f => .fault f
      | .refused r => .refused r) ∧
  (∀ (x y : Byte) (data : List Byte), 1 ≤ data.length → data.length ≤ 250 →
    ∃ F, decodeFrame fcb (buildFrame fcb x y data) = .ok F ∧ F.sync = x ∧ F.address = y ∧ F.data = data) ∧
  (∀ (f : List Byte) (F : Frame) (k : Nat) (x : Byte), decodeFrame fcb f = .ok F → k < 2 → x ≠ f.getD k 0#8 →
    decodeFrame fcb (f.set k x) = .error .badChecksum)

/-- 42_decode_validate.md R112, 70_reset_and_hazards.md R169: two whole frames, a frame followed by 0x00 and a frame
preceded by 0x00 bytes always pass the trailer check; the length check alone decides, for leading 0x00 bytes either way (log 19). For buffers of more
than 255 bytes, outside the domain of R110, the outcome is the model's choice (log 20). -/
def Obligations.MisdelimitedBuffersMeetTheLengthCheck : Prop :=
  ∀ (f g : List Byte) (F G : Frame), decodeFrame fcb f = .ok F → decodeFrame fcb g = .ok G →
    decodeFrame fcb (f ++ g) = .error .badLength ∧
    decodeFrame fcb (f ++ [0x00#8]) = .error .badLength ∧
    ∀ k, 1 ≤ k → ∀ B, B = List.replicate k 0x00#8 ++ f →
      ((B.getD 2 0#8).toNat ≠ B.length → decodeFrame fcb B = .error .badLength) ∧
      ((B.getD 2 0#8).toNat = B.length → ∃ H, decodeFrame fcb B = .ok H)

/-! ## Properties of the whole block -/

/-- 42_decode_validate.md R116: the round trip on the block (ENCODE, LOOPBACK of 30_encoding.md R74, DECODE) and on the
functions. -/
def Obligations.EncodeLoopbackDecodeRoundTrip : Prop :=
  (∀ (s : State) (params : List Byte), params.length = s.plen.toNat → s.plen.toNat ≤ 249 → Holds s.pbuf params →
    ∃ t u v, exec .encode s = .next t ∧ loopback t = .next u ∧ exec .decode u = .next v ∧
      v.err = 0#4 ∧ v.fValid = true ∧ v.fSync = s.syncVal ∧ v.fAddr = s.addrVal ∧ v.fLen = t.txLen ∧
      v.payLen.toNat = 1 + s.plen.toNat ∧ v.rxLen = t.txLen ∧ v.rxbuf.read 3 = some s.opcode ∧
      ∀ i, i < s.plen.toNat → v.rxbuf.read (4 + i) = s.pbuf.read i) ∧
  (∀ (sync address opcode : Byte) (params : List Byte), params.length ≤ 249 →
    ∃ f F, encodeFrame fcb sync address opcode params = some f ∧ decodeFrame fcb f = .ok F ∧
      F.sync = sync ∧ F.address = address ∧ F.data = opcode :: params)

/-- 42_decode_validate.md R117: a frame built by the encoder with any one byte changed, by any amount, ends both `DECODE`
and `VALIDATE` in `BadChecksum`. -/
def Obligations.AnySingleByteDamageGivesBadChecksum : Prop :=
  ∀ (sync address opcode : Byte) (params f : List Byte) (k : Nat) (x : Byte) (s : State),
    encodeFrame fcb sync address opcode params = some f → k < f.length → x ≠ f.getD k 0#8 →
    s.rxLen.toNat = f.length → Holds s.rxbuf (f.set k x) →
    ∃ t, exec .decode s = .next t ∧ exec .validate s = .next t ∧ t.err = 2#4 ∧ t.fValid = false

/-- A link frame handed to the block does what the host's LDRX of its bytes does (30_encoding.md R74), and that is: its
bytes in `RXBUF` from index 0 on, their number in `RXLEN`, the decode result withdrawn. That a link frame is an input at
all is the model's choice (log 6). -/
def Obligations.LinkFrameEqualsLdrxOfItsBytes : Prop :=
  ∀ (i : Instr) (bytes : List Byte) (s : State), i.wellFormed = true → Sys2Proof.encode i = .frame bytes →
    ∃ (m : Memory) (t : State), exec i s = .next t ∧ runAll (expand (.ldrx bytes)) s = .next t ∧
      t = { s with
        rxbuf := m, rxLen := BitVec.ofNat 8 bytes.length, fValid := false, cls := 0#2, fSync := 0#8, fAddr := 0#8,
        fLen := 0#8, fCrc := 0#16, payLen := 0#8, reply := .none } ∧
      bytes.length ≤ 255 ∧ ∀ j, m.read j = if j < bytes.length then some (bytes.getD j 0#8) else s.rxbuf.read j

/-- Every step keeps the state legal: canonical buffers, no reserved error code, and the invariants TX and RX of
10_state.md R34 and R35. -/
def Obligations.StepKeepsTheStateLegal : Prop :=
  ∀ s t : State, Legal s → step s = .next t → Legal t

/-- 10_state.md R34: invariant TX in every reachable state. -/
def Obligations.EncodedFrameStaysConsistent : Prop :=
  ∀ s : State, Reachable s →
    (s.txValid = true → 6 ≤ s.txLen.toNat ∧ s.txLen.toNat ≤ 255 ∧
      ∃ f : List Byte, f.length = s.txLen.toNat ∧ Holds s.txbuf f ∧ f.getD 2 0#8 = s.txLen ∧
        crc16 fcb (f.take (s.txLen.toNat - 2)) =
          f.getD (s.txLen.toNat - 1) 0#8 ++ f.getD (s.txLen.toNat - 2) 0#8) ∧
    (s.txValid = false → s.txLen = 0#8)

/-- 10_state.md R35: invariant RX in every reachable state. -/
def Obligations.DecodedFrameStaysConsistent : Prop :=
  ∀ s : State, Reachable s →
    (s.fValid = true → 6 ≤ s.rxLen.toNat ∧ s.rxLen.toNat ≤ 255 ∧
      ∃ B : List Byte, B.length = s.rxLen.toNat ∧ Holds s.rxbuf B ∧ B.getD 2 0#8 = s.rxLen ∧
        crc16 fcb (B.take (s.rxLen.toNat - 2)) = s.fCrc ∧
        B.getD (s.rxLen.toNat - 1) 0#8 ++ B.getD (s.rxLen.toNat - 2) 0#8 = s.fCrc ∧
        s.fSync = B.getD 0 0#8 ∧ s.fAddr = B.getD 1 0#8 ∧ s.fLen = s.rxLen ∧
        s.payLen.toNat = s.rxLen.toNat - 5 ∧
        (s.cls = 1#2 → s.payLen = 1#8 ∧ B.getD 3 0#8 = 0x00#8) ∧
        (s.cls = 2#2 → s.payLen = 1#8 ∧ B.getD 3 0#8 = 0xFF#8) ∧
        (s.cls = 3#2 → ¬ (s.payLen = 1#8 ∧ (B.getD 3 0#8 = 0x00#8 ∨ B.getD 3 0#8 = 0xFF#8)))) ∧
    (s.fValid = false → s.cls = 0#2 ∧ s.fSync = 0#8 ∧ s.fAddr = 0#8 ∧ s.fLen = 0#8 ∧ s.fCrc = 0#16 ∧ s.payLen = 0#8)

/-- 30_encoding.md R72: no reachable state holds a reserved `ERR` value. -/
def Obligations.ReservedErrValuesAreNeverProduced : Prop :=
  ∀ s : State, Reachable s → s.err.toNat ≤ 6

/-! ## Parameters -/

/-- 00_scope.md R5: the machine with the parameters as arguments is this block at the values the rule gives, and for any
parameters RESET and `CRC.CLR` leave the values that the parameters name. -/
def Obligations.ParametersAreArgumentsOfTheMachine : Prop :=
  fcb = { crcPolyR := 0x8408#16, crcInit := 0x0000#16, trailerLowFirst := true, syncReset := 0x02#8, addrReset := 0x03#8,
          minFrame := 6 } ∧
  (∀ (i : Instr) (s : State), execWith fcb i s = exec i s) ∧
  (∀ s : State, stepWith fcb s = step s) ∧
  (∀ (p : Config) (s : State), ∃ t, execWith p .reset s = .next t ∧ t = { State.resetWith p with inputs := s.inputs } ∧
    t.crc = p.crcInit ∧ t.syncVal = p.syncReset ∧ t.addrVal = p.addrReset) ∧
  (∀ (p : Config) (s : State), execWith p .crcClr s = .next { s with crc := p.crcInit, err := 0#4, reply := .none })

/-- 00_scope.md R5: for every polynomial, initial value, trailer order and header bytes and both admitted minimum frame
sizes, decoding what the encoder writes for a well-formed instruction gives the instruction back. -/
def Obligations.EveryParameterSetDecodesWhatItEncodes : Prop :=
  ∀ (p : Config) (i : Instr), p.minFrameAdmitted = true → i.wellFormedWith p = true →
    Sys2Proof.decodeWith p (Sys2Proof.encodeWith p i) = .ok i

/-- 00_scope.md R5: for every parameter set, what `ENCODE` puts in `TXBUF` decodes on the machine of that set to the
Command's own bytes. -/
def Obligations.EveryParameterSetRoundTrips : Prop :=
  ∀ (p : Config) (s : State) (params : List Byte), p.minFrameAdmitted = true → params.length = s.plen.toNat →
    s.plen.toNat ≤ 249 → Holds s.pbuf params →
    ∃ t f, execWith p .encode s = .next t ∧ encodeFrame p s.syncVal s.addrVal s.opcode params = some f ∧
      f.length = t.txLen.toNat ∧ Holds t.txbuf f ∧
      ∀ u : State, u.rxLen = t.txLen → Holds u.rxbuf f →
        ∃ v, execWith p .decode u = .next v ∧ v.err = 0#4 ∧ v.fValid = true ∧ v.fSync = s.syncVal ∧
          v.fAddr = s.addrVal ∧ v.payLen.toNat = 1 + params.length ∧ v.rxbuf.read 3 = some s.opcode ∧
          ∀ i, i < params.length → v.rxbuf.read (4 + i) = s.pbuf.read i
end

