-- ==== Sys2Proof/Laws/Codec.lean ====
section
/-! SUPPORT. The laws of the pure functions: the two bytes of a checksum, lengths, folding a concatenation, and what `decodeFrame` accepts. -/

namespace Sys2Proof.Machine

/-- Bit `i` of a 16-bit number made of two bytes. -/
theorem getLsbD_append_byte (x y : Byte) (i : Nat) :
    (y ++ x : Half).getLsbD i = if i < 8 then x.getLsbD i else y.getLsbD (i - 8) :=
  BitVec.getLsbD_append

@[simp] theorem highByte_append_lowByte (v : Half) : (highByte v ++ lowByte v : Half) = v := by
  apply BitVec.eq_of_getLsbD_eq
  intro i hi
  rw [getLsbD_append_byte]
  by_cases h : i < 8
  · simp [lowByte, h]
  · simp only [highByte, h, if_false, BitVec.getLsbD_extractLsb', show i - 8 < 8 by omega,
      show 8 + (i - 8) = i by omega, decide_true, Bool.true_and]

@[simp] theorem lowByte_append (x y : Byte) : lowByte (y ++ x : Half) = x := by
  apply BitVec.eq_of_getLsbD_eq
  intro i hi
  simp only [lowByte, BitVec.getLsbD_extractLsb', getLsbD_append_byte]
  simp [hi]

@[simp] theorem highByte_append (x y : Byte) : highByte (y ++ x : Half) = y := by
  apply BitVec.eq_of_getLsbD_eq
  intro i hi
  simp only [highByte, BitVec.getLsbD_extractLsb', getLsbD_append_byte]
  simp [hi]

/-- A number is a second byte over a first byte exactly when those are its two bytes. -/
theorem eq_append_iff (v : Half) (x y : Byte) : v = (y ++ x : Half) ↔ lowByte v = x ∧ highByte v = y := by
  constructor
  · rintro rfl; simp
  · rintro ⟨rfl, rfl⟩; exact (highByte_append_lowByte v).symm

theorem setWidth_byte (b : Byte) : b.setWidth 16 = (0#8 ++ b : Half) := by
  apply BitVec.eq_of_getLsbD_eq
  intro i hi
  rw [getLsbD_append_byte, BitVec.getLsbD_setWidth]
  by_cases h : i < 8
  · simp [h, hi]
  · simp [h, BitVec.getLsbD_of_ge b i (by omega)]

@[simp] theorem lowByte_setWidth (b : Byte) : lowByte (b.setWidth 16) = b := by rw [setWidth_byte, lowByte_append]

@[simp] theorem highByte_setWidth (b : Byte) : highByte (b.setWidth 16) = 0#8 := by rw [setWidth_byte, highByte_append]

@[simp] theorem fcb_trailerLowFirst : fcb.trailerLowFirst = true := rfl
@[simp] theorem fcb_crcPolyR : fcb.crcPolyR = 0x8408#16 := rfl
@[simp] theorem fcb_crcInit : fcb.crcInit = 0#16 := rfl
@[simp] theorem fcb_syncReset : fcb.syncReset = 0x02#8 := rfl
@[simp] theorem fcb_addrReset : fcb.addrReset = 0x03#8 := rfl
@[simp] theorem fcb_minFrame : fcb.minFrame = 6 := rfl

theorem trailerBytes_fcb (c : Half) : trailerBytes fcb c = [lowByte c, highByte c] := rfl

theorem trailerNumber_fcb (x y : Byte) : trailerNumber fcb x y = y ++ x := rfl

@[simp] theorem trailerBytes_length (p : Config) (c : Half) : (trailerBytes p c).length = 2 := by
  unfold trailerBytes; split <;> rfl

/-- Reading back the trailer of a checksum gives the checksum, in either byte order. -/
theorem trailerNumber_trailerBytes (p : Config) (c : Half) :
    trailerNumber p ((trailerBytes p c).getD 0 0#8) ((trailerBytes p c).getD 1 0#8) = c := by
  unfold trailerNumber trailerBytes
  split <;> simp

@[simp] theorem frameBody_length (x y : Byte) (data : List Byte) : (frameBody x y data).length = data.length + 3 := by
  simp [frameBody]

@[simp] theorem buildFrame_length (p : Config) (x y : Byte) (data : List Byte) :
    (buildFrame p x y data).length = data.length + 5 := by
  simp [buildFrame]

theorem crcFold_append (p : Config) (c : Half) (s t : List Byte) :
    crcFold p c (s ++ t) = crcFold p (crcFold p c s) t := by
  induction s generalizing c with
  | nil => rfl
  | cons b s ih => exact ih _

theorem crcFold_eq_foldl (p : Config) (c : Half) (s : List Byte) : crcFold p c s = s.foldl (crcStep p) c := by
  induction s generalizing c with
  | nil => rfl
  | cons b s ih => exact ih _

/-- The four outcomes of `decodeFrame`, each with the conditions of 42_decode_validate.md R110. -/
theorem decodeFrame_cases (p : Config) (B : List Byte) :
    (B.length < p.minFrame ∧ decodeFrame p B = .error .tooShort) ∨
    (p.minFrame ≤ B.length ∧
      crc16 p (B.take (B.length - 2)) ≠ trailerNumber p (B.getD (B.length - 2) 0#8) (B.getD (B.length - 1) 0#8) ∧
      decodeFrame p B = .error .badChecksum) ∨
    (p.minFrame ≤ B.length ∧
      crc16 p (B.take (B.length - 2)) = trailerNumber p (B.getD (B.length - 2) 0#8) (B.getD (B.length - 1) 0#8) ∧
      (B.getD 2 0#8).toNat ≠ B.length ∧ decodeFrame p B = .error .badLength) ∨
    (p.minFrame ≤ B.length ∧
      crc16 p (B.take (B.length - 2)) = trailerNumber p (B.getD (B.length - 2) 0#8) (B.getD (B.length - 1) 0#8) ∧
      (B.getD 2 0#8).toNat = B.length ∧
      decodeFrame p B = .ok
        { sync := B.getD 0 0#8, address := B.getD 1 0#8, length := B.getD 2 0#8,
          data := (B.drop 3).take (B.length - 3 - 2),
          crc16 := trailerNumber p (B.getD (B.length - 2) 0#8) (B.getD (B.length - 1) 0#8) }) := by
  by_cases h1 : B.length < p.minFrame
  · exact .inl ⟨h1, by simp [decodeFrame, h1]⟩
  · refine .inr ?_
    by_cases h2 : crc16 p (B.take (B.length - 2)) =
        trailerNumber p (B.getD (B.length - 2) 0#8) (B.getD (B.length - 1) 0#8)
    · refine .inr ?_
      by_cases h3 : (B.getD 2 0#8).toNat = B.length
      · refine .inr ⟨by omega, h2, h3, ?_⟩
        unfold decodeFrame
        dsimp only [trlLen, hdrLen]
        rw [if_neg h1, if_neg (not_not.2 h2), if_neg (not_not.2 h3)]
      · refine .inl ⟨by omega, h2, h3, ?_⟩
        unfold decodeFrame
        dsimp only [trlLen, hdrLen]
        rw [if_neg h1, if_neg (not_not.2 h2), if_pos h3]
    · refine .inl ⟨by omega, h2, ?_⟩
      unfold decodeFrame
      dsimp only [trlLen, hdrLen]
      rw [if_neg h1, if_pos h2]

/-- A buffer decodes to a Frame exactly when it passes the three checks; then its fields are these. -/
theorem decodeFrame_ok_iff (p : Config) (B : List Byte) (F : Frame) :
    decodeFrame p B = .ok F ↔
      p.minFrame ≤ B.length ∧
      crc16 p (B.take (B.length - 2)) = trailerNumber p (B.getD (B.length - 2) 0#8) (B.getD (B.length - 1) 0#8) ∧
      (B.getD 2 0#8).toNat = B.length ∧
      F = { sync := B.getD 0 0#8, address := B.getD 1 0#8, length := B.getD 2 0#8,
            data := (B.drop 3).take (B.length - 3 - 2),
            crc16 := trailerNumber p (B.getD (B.length - 2) 0#8) (B.getD (B.length - 1) 0#8) } := by
  rcases decodeFrame_cases p B with ⟨h, e⟩ | ⟨h1, h2, e⟩ | ⟨h1, h2, h3, e⟩ | ⟨h1, h2, h3, e⟩ <;> rw [e]
  · exact ⟨fun h' => by simp at h', fun h' => by omega⟩
  · exact ⟨fun h' => by simp at h', fun h' => absurd h'.2.1 h2⟩
  · exact ⟨fun h' => by simp at h', fun h' => absurd h'.2.2.1 h3⟩
  · exact ⟨fun h' => ⟨h1, h2, h3, (Except.ok.inj h').symm⟩, fun h' => by rw [h'.2.2.2]⟩

/-- A payload's class is ACK or NAK only for the one-byte payloads 0x00 and 0xFF. -/
theorem classify_cases (data : List Byte) :
    (data = [ackByte] ∧ classify data = .ack) ∨ (data = [nakByte] ∧ classify data = .nak) ∨
      (data ≠ [ackByte] ∧ data ≠ [nakByte] ∧ classify data = .data) := by
  match data with
  | [] => exact .inr (.inr ⟨by simp, by simp, rfl⟩)
  | [b] =>
    by_cases h1 : b = ackByte
    · exact .inl ⟨by simp [h1], by simp [classify, h1]⟩
    · by_cases h2 : b = nakByte
      · exact .inr (.inl ⟨by simp [h2], by simp [classify, h2]; decide⟩)
      · exact .inr (.inr ⟨by simp [h1], by simp [h2], by simp [classify, h1, h2]⟩)
  | b :: c :: d => exact .inr (.inr ⟨by simp, by simp, by simp [classify]⟩)

end Sys2Proof.Machine
end

