-- ==== Sys2Proof/Laws/Memory.lean ====
section
/-! SUPPORT. The laws of a buffer: read after write, canonical form, and what reading a range gives. -/

namespace Sys2Proof.Machine

theorem Memory.read_write_same (m : Memory) (i : Nat) (b : Byte) : (m.write i b).read i = some b := by
  induction m with
  | nil => simp [Memory.write, Memory.read]
  | cons c m ih =>
    obtain ⟨a, x⟩ := c
    by_cases h1 : a < i
    · simp [Memory.write, Memory.read, h1, ih, Nat.ne_of_lt h1]
    · by_cases h2 : a = i <;> simp [Memory.write, Memory.read, h1, h2]

theorem Memory.read_write_other (m : Memory) {i j : Nat} (b : Byte) (h : j ≠ i) :
    (m.write i b).read j = m.read j := by
  induction m with
  | nil => simp [Memory.write, Memory.read, Ne.symm h]
  | cons c m ih =>
    obtain ⟨a, x⟩ := c
    by_cases h1 : a < i
    · simp [Memory.write, Memory.read, h1, ih]
    · by_cases h2 : a = i
      · subst h2
        simp [Memory.write, Memory.read, Ne.symm h]
      · simp [Memory.write, Memory.read, h1, h2, Ne.symm h]

/-- What a read gives after one write. -/
theorem Memory.read_write (m : Memory) (i j : Nat) (b : Byte) :
    (m.write i b).read j = if j = i then some b else m.read j := by
  by_cases h : j = i
  · subst h; simp [Memory.read_write_same]
  · simp [h, Memory.read_write_other m b h]

/-- What a read gives after a write of a byte sequence. -/
theorem Memory.read_writeBytes (bs : List Byte) (m : Memory) (i j : Nat) :
    (m.writeBytes i bs).read j =
      if i ≤ j ∧ j < i + bs.length then some (bs.getD (j - i) 0#8) else m.read j := by
  induction bs generalizing m i with
  | nil => simp [Memory.writeBytes, show ¬ (i ≤ j ∧ j < i) by omega]
  | cons b bs ih =>
    rw [Memory.writeBytes, ih, Memory.read_write]
    by_cases h0 : j = i
    · subst h0; simp
    · by_cases h1 : i + 1 ≤ j ∧ j < i + 1 + bs.length
      · have h2 : i ≤ j ∧ j < i + (b :: bs).length := by simp; omega
        have h3 : j - i = (j - (i + 1)) + 1 := by omega
        rw [if_pos h1, if_pos h2, h3]
        simp
      · have h2 : ¬ (i ≤ j ∧ j < i + (b :: bs).length) := by simp; omega
        rw [if_neg h1, if_neg h2, if_neg h0]

theorem Memory.mem_write {m : Memory} {i : Nat} {b : Byte} {c : Host.Cell} (h : c ∈ m.write i b) :
    c = (i, b) ∨ c ∈ m := by
  induction m with
  | nil => simpa [Memory.write] using h
  | cons d m ih =>
    obtain ⟨a, x⟩ := d
    by_cases h1 : a < i
    · simp only [Memory.write, h1, if_true, List.mem_cons] at h ⊢
      rcases h with h | h
      · exact .inr (.inl h)
      · exact (ih h).imp id .inr
    · by_cases h2 : a = i
      · rw [Memory.write, if_neg h1, if_pos h2] at h
        exact (List.mem_cons.1 h).imp id (List.mem_cons_of_mem _)
      · rw [Memory.write, if_neg h1, if_neg h2] at h
        exact List.mem_cons.1 h

/-- A write keeps the canonical form. -/
theorem Memory.write_wf {m : Memory} (hm : m.wf) {i : Nat} (hi : i < bufSize) (b : Byte) : (m.write i b).wf := by
  refine ⟨?_, fun c hc => ?_⟩
  · obtain ⟨hp, -⟩ := hm
    induction m with
    | nil => simp [Memory.write]
    | cons d m ih =>
      obtain ⟨a, x⟩ := d
      rw [List.pairwise_cons] at hp
      by_cases h1 : a < i
      · rw [Memory.write, if_pos h1, List.pairwise_cons]
        refine ⟨fun c hc => ?_, ih hp.2⟩
        rcases Memory.mem_write hc with rfl | hc
        · exact h1
        · exact hp.1 c hc
      · by_cases h2 : a = i
        · subst h2
          rw [Memory.write, if_neg h1, if_pos rfl, List.pairwise_cons]
          exact ⟨hp.1, hp.2⟩
        · rw [Memory.write, if_neg h1, if_neg h2, List.pairwise_cons, List.pairwise_cons]
          refine ⟨fun c hc => ?_, hp.1, hp.2⟩
          rcases List.mem_cons.1 hc with rfl | hc
          · exact Nat.lt_of_le_of_ne (Nat.le_of_not_lt h1) (Ne.symm h2)
          · exact Nat.lt_of_le_of_lt (Nat.le_of_not_lt h1) (hp.1 c hc)
  · rcases Memory.mem_write hc with rfl | hc
    · exact hi
    · exact hm.2 c hc

/-- A write of a byte sequence that fits keeps the canonical form. -/
theorem Memory.writeBytes_wf (bs : List Byte) {m : Memory} (hm : m.wf) {i : Nat} (hi : i + bs.length ≤ bufSize) :
    (m.writeBytes i bs).wf := by
  induction bs generalizing m i with
  | nil => simpa [Memory.writeBytes] using hm
  | cons b bs ih =>
    rw [List.length_cons] at hi
    exact ih (Memory.write_wf hm (by omega) b) (by omega)

theorem Memory.nil_wf : Memory.wf [] := by simp [Memory.wf]

/-- A canonical buffer has at its head the least index that has been written. -/
theorem Memory.read_below_head {a : Nat} {x : Byte} {m : Memory} (hm : Memory.wf ((a, x) :: m)) {j : Nat} (hj : j ≤ a) :
    Memory.read m j = none := by
  have hlt : ∀ c ∈ m, j < c.1 := fun c hc => Nat.lt_of_le_of_lt hj ((List.pairwise_cons.1 hm.1).1 c hc)
  clear hm
  induction m with
  | nil => rfl
  | cons d m ih =>
    obtain ⟨e, y⟩ := d
    have he : j < e := hlt (e, y) (by simp)
    simp [Memory.read, Nat.ne_of_gt he, ih fun c hc => hlt c (by simp [hc])]

theorem Memory.wf_tail {c : Host.Cell} {m : Memory} (hm : Memory.wf (c :: m)) : Memory.wf m :=
  ⟨(List.pairwise_cons.1 hm.1).2, fun d hd => hm.2 d (by simp [hd])⟩

/-- Canonical buffers that read alike are equal data. -/
theorem Memory.ext_of_wf {m n : Memory} (hm : m.wf) (hn : n.wf) (h : ∀ j, m.read j = n.read j) : m = n := by
  induction m generalizing n with
  | nil =>
    cases n with
    | nil => rfl
    | cons d n => simpa [Memory.read] using h d.1
  | cons c m ih =>
    obtain ⟨a, x⟩ := c
    cases n with
    | nil => simpa [Memory.read] using h a
    | cons d n =>
      obtain ⟨e, y⟩ := d
      have hae : a = e := by
        rcases Nat.lt_trichotomy a e with hlt | heq | hgt
        · have h1 := h a
          simp [Memory.read, Nat.ne_of_gt hlt, Memory.read_below_head hn (Nat.le_of_lt hlt)] at h1
        · exact heq
        · have h1 := h e
          simp [Memory.read, Nat.ne_of_gt hgt, Memory.read_below_head hm (Nat.le_of_lt hgt)] at h1
      subst hae
      have hxy : x = y := by simpa [Memory.read] using h a
      subst hxy
      rw [ih (Memory.wf_tail hm) (Memory.wf_tail hn) fun j => ?_]
      by_cases hj : a = j
      · subst hj
        rw [Memory.read_below_head hm (Nat.le_refl _), Memory.read_below_head hn (Nat.le_refl _)]
      · simpa [Memory.read, hj] using h j

/-- Reading a range answers exactly the bytes that stand there. -/
theorem readRange_ok_iff (sp : Space) (m : Memory) (i n : Nat) (B : List Byte) :
    readRange sp m i n = .ok B ↔ B.length = n ∧ ∀ j (h : j < B.length), m.read (i + j) = some B[j] := by
  induction n generalizing i B with
  | zero =>
    simp only [readRange, Except.ok.injEq, List.length_eq_zero_iff]
    exact ⟨fun h => ⟨h.symm, fun j hj => by subst h; simp at hj⟩, fun h => h.1.symm⟩
  | succ n ih =>
    cases hr : m.read i with
    | none =>
      simp only [readRange, hr, reduceCtorEq, false_iff, not_and]
      intro hl h
      have := h 0 (by omega)
      simp [hr] at this
    | some b =>
      cases hrest : readRange sp m (i + 1) n with
      | error f =>
        simp only [readRange, hr, hrest, reduceCtorEq, false_iff, not_and]
        intro hl h
        cases B with
        | nil => simp at hl
        | cons c C =>
          have : readRange sp m (i + 1) n = .ok C := by
            rw [ih]
            refine ⟨by simpa using hl, fun j hj => ?_⟩
            have := h (j + 1) (by simpa using hj)
            rw [show i + 1 + j = i + (j + 1) by omega, this]
            simp
          simp [hrest] at this
      | ok C =>
        have hC := (ih (i + 1) C).1 hrest
        simp only [readRange, hr, hrest, Except.ok.injEq]
        constructor
        · rintro rfl
          refine ⟨by simp [hC.1], fun j hj => ?_⟩
          cases j with
          | zero => simpa using hr
          | succ j =>
            have := hC.2 j (by simpa using hj)
            rw [show i + (j + 1) = i + 1 + j by omega, this]
            simp
        · rintro ⟨hl, h⟩
          cases B with
          | nil => simp at hl
          | cons c B =>
            have hb : b = c := by
              have := h 0 (by simp)
              simpa [hr] using this
            have hB : readRange sp m (i + 1) n = .ok B := by
              rw [ih]
              refine ⟨by simpa using hl, fun j hj => ?_⟩
              have := h (j + 1) (by simpa using hj)
              rw [show i + 1 + j = i + (j + 1) by omega, this]
              simp
            rw [hrest] at hB
            simp only [Except.ok.injEq] at hB
            rw [hb, hB]

/-- A range from index 0 reads as `B` exactly when the buffer holds `B`. -/
theorem readRange_zero_iff (sp : Space) (m : Memory) (n : Nat) (B : List Byte) :
    readRange sp m 0 n = .ok B ↔ B.length = n ∧ Holds m B := by
  simp [readRange_ok_iff, Holds]

/-- A range that cannot be read names its first unwritten byte. -/
theorem readRange_error {sp : Space} {m : Memory} {i n : Nat} {f : Fault} (h : readRange sp m i n = .error f) :
    ∃ j, i ≤ j ∧ j < i + n ∧ f = .unwrittenByte sp j ∧ m.read j = none := by
  induction n generalizing i with
  | zero => simp [readRange] at h
  | succ n ih =>
    cases hr : m.read i with
    | none =>
      simp only [readRange, hr, Except.error.injEq] at h
      exact ⟨i, Nat.le_refl i, by omega, h.symm, hr⟩
    | some b =>
      cases hrest : readRange sp m (i + 1) n with
      | ok C => simp [readRange, hr, hrest] at h
      | error g =>
        simp only [readRange, hr, hrest, Except.error.injEq] at h
        subst h
        obtain ⟨j, h1, h2, h3⟩ := ih hrest
        exact ⟨j, by omega, by omega, h3⟩

/-- A range of written bytes can be read. -/
theorem readRange_of_written {sp : Space} {m : Memory} {n : Nat} (h : Written m n) :
    ∃ B, readRange sp m 0 n = .ok B ∧ B.length = n ∧ Holds m B := by
  cases hr : readRange sp m 0 n with
  | ok B => exact ⟨B, rfl, (readRange_zero_iff sp m n B).1 hr⟩
  | error f =>
    obtain ⟨j, -, h2, -, h4⟩ := readRange_error hr
    have := h j (by omega)
    simp [h4] at this

/-- A range that holds an unwritten byte cannot be read. -/
theorem readRange_of_unwritten {sp : Space} {m : Memory} {n : Nat} (h : ∃ i, i < n ∧ m.read i = none) :
    ∃ f, readRange sp m 0 n = .error f := by
  cases hr : readRange sp m 0 n with
  | error f => exact ⟨f, rfl⟩
  | ok B =>
    obtain ⟨i, hi, hn⟩ := h
    obtain ⟨hl, hB⟩ := (readRange_zero_iff sp m n B).1 hr
    have := hB i (by omega)
    simp [hn] at this

theorem Holds.read_getD {m : Memory} {B : List Byte} (h : Holds m B) {i : Nat} (hi : i < B.length) :
    m.read i = some (B.getD i 0#8) := by
  simpa [List.getD_eq_getElem?_getD, hi] using h i hi

theorem Holds.written {m : Memory} {B : List Byte} (h : Holds m B) : Written m B.length := fun i hi => by
  simp [h i hi]

/-- A byte sequence written from index 0 on is what the buffer holds. -/
theorem Memory.holds_writeBytes (m : Memory) (bs : List Byte) : Holds (m.writeBytes 0 bs) bs := fun i hi => by
  simp [Memory.read_writeBytes, hi]

end Sys2Proof.Machine
end

