-- ==== Sys2Proof/Laws/State.lean ====
section
/-! SUPPORT. One lemma per field of State per named update: what the update leaves in the field. -/

namespace Sys2Proof.Machine

/-! `clearErr`: `ERR <- 0`. -/

@[simp] theorem clearErr_err (s : State) : (clearErr s).err = 0#4 := rfl
@[simp] theorem clearErr_txValid (s : State) : (clearErr s).txValid = s.txValid := rfl
@[simp] theorem clearErr_fValid (s : State) : (clearErr s).fValid = s.fValid := rfl
@[simp] theorem clearErr_cls (s : State) : (clearErr s).cls = s.cls := rfl
@[simp] theorem clearErr_din (s : State) : (clearErr s).din = s.din := rfl
@[simp] theorem clearErr_crc (s : State) : (clearErr s).crc = s.crc := rfl
@[simp] theorem clearErr_syncVal (s : State) : (clearErr s).syncVal = s.syncVal := rfl
@[simp] theorem clearErr_addrVal (s : State) : (clearErr s).addrVal = s.addrVal := rfl
@[simp] theorem clearErr_opcode (s : State) : (clearErr s).opcode = s.opcode := rfl
@[simp] theorem clearErr_plen (s : State) : (clearErr s).plen = s.plen := rfl
@[simp] theorem clearErr_txLen (s : State) : (clearErr s).txLen = s.txLen := rfl
@[simp] theorem clearErr_rxLen (s : State) : (clearErr s).rxLen = s.rxLen := rfl
@[simp] theorem clearErr_fSync (s : State) : (clearErr s).fSync = s.fSync := rfl
@[simp] theorem clearErr_fAddr (s : State) : (clearErr s).fAddr = s.fAddr := rfl
@[simp] theorem clearErr_fLen (s : State) : (clearErr s).fLen = s.fLen := rfl
@[simp] theorem clearErr_fCrc (s : State) : (clearErr s).fCrc = s.fCrc := rfl
@[simp] theorem clearErr_payLen (s : State) : (clearErr s).payLen = s.payLen := rfl
@[simp] theorem clearErr_pbuf (s : State) : (clearErr s).pbuf = s.pbuf := rfl
@[simp] theorem clearErr_txbuf (s : State) : (clearErr s).txbuf = s.txbuf := rfl
@[simp] theorem clearErr_rxbuf (s : State) : (clearErr s).rxbuf = s.rxbuf := rfl
@[simp] theorem clearErr_reply (s : State) : (clearErr s).reply = s.reply := rfl
@[simp] theorem clearErr_inputs (s : State) : (clearErr s).inputs = s.inputs := rfl

/-! `setErr`: `ERR <- code of e`. -/

@[simp] theorem setErr_err (e : Err) (s : State) : (setErr e s).err = errCode e := rfl
@[simp] theorem setErr_txValid (e : Err) (s : State) : (setErr e s).txValid = s.txValid := rfl
@[simp] theorem setErr_fValid (e : Err) (s : State) : (setErr e s).fValid = s.fValid := rfl
@[simp] theorem setErr_cls (e : Err) (s : State) : (setErr e s).cls = s.cls := rfl
@[simp] theorem setErr_din (e : Err) (s : State) : (setErr e s).din = s.din := rfl
@[simp] theorem setErr_crc (e : Err) (s : State) : (setErr e s).crc = s.crc := rfl
@[simp] theorem setErr_syncVal (e : Err) (s : State) : (setErr e s).syncVal = s.syncVal := rfl
@[simp] theorem setErr_addrVal (e : Err) (s : State) : (setErr e s).addrVal = s.addrVal := rfl
@[simp] theorem setErr_opcode (e : Err) (s : State) : (setErr e s).opcode = s.opcode := rfl
@[simp] theorem setErr_plen (e : Err) (s : State) : (setErr e s).plen = s.plen := rfl
@[simp] theorem setErr_txLen (e : Err) (s : State) : (setErr e s).txLen = s.txLen := rfl
@[simp] theorem setErr_rxLen (e : Err) (s : State) : (setErr e s).rxLen = s.rxLen := rfl
@[simp] theorem setErr_fSync (e : Err) (s : State) : (setErr e s).fSync = s.fSync := rfl
@[simp] theorem setErr_fAddr (e : Err) (s : State) : (setErr e s).fAddr = s.fAddr := rfl
@[simp] theorem setErr_fLen (e : Err) (s : State) : (setErr e s).fLen = s.fLen := rfl
@[simp] theorem setErr_fCrc (e : Err) (s : State) : (setErr e s).fCrc = s.fCrc := rfl
@[simp] theorem setErr_payLen (e : Err) (s : State) : (setErr e s).payLen = s.payLen := rfl
@[simp] theorem setErr_pbuf (e : Err) (s : State) : (setErr e s).pbuf = s.pbuf := rfl
@[simp] theorem setErr_txbuf (e : Err) (s : State) : (setErr e s).txbuf = s.txbuf := rfl
@[simp] theorem setErr_rxbuf (e : Err) (s : State) : (setErr e s).rxbuf = s.rxbuf := rfl
@[simp] theorem setErr_reply (e : Err) (s : State) : (setErr e s).reply = s.reply := rfl
@[simp] theorem setErr_inputs (e : Err) (s : State) : (setErr e s).inputs = s.inputs := rfl

/-! `setClass`: `CLASS <- code of k`. -/

@[simp] theorem setClass_err (k : PayloadClass) (s : State) : (setClass k s).err = s.err := rfl
@[simp] theorem setClass_txValid (k : PayloadClass) (s : State) : (setClass k s).txValid = s.txValid := rfl
@[simp] theorem setClass_fValid (k : PayloadClass) (s : State) : (setClass k s).fValid = s.fValid := rfl
@[simp] theorem setClass_cls (k : PayloadClass) (s : State) : (setClass k s).cls = classCode k := rfl
@[simp] theorem setClass_din (k : PayloadClass) (s : State) : (setClass k s).din = s.din := rfl
@[simp] theorem setClass_crc (k : PayloadClass) (s : State) : (setClass k s).crc = s.crc := rfl
@[simp] theorem setClass_syncVal (k : PayloadClass) (s : State) : (setClass k s).syncVal = s.syncVal := rfl
@[simp] theorem setClass_addrVal (k : PayloadClass) (s : State) : (setClass k s).addrVal = s.addrVal := rfl
@[simp] theorem setClass_opcode (k : PayloadClass) (s : State) : (setClass k s).opcode = s.opcode := rfl
@[simp] theorem setClass_plen (k : PayloadClass) (s : State) : (setClass k s).plen = s.plen := rfl
@[simp] theorem setClass_txLen (k : PayloadClass) (s : State) : (setClass k s).txLen = s.txLen := rfl
@[simp] theorem setClass_rxLen (k : PayloadClass) (s : State) : (setClass k s).rxLen = s.rxLen := rfl
@[simp] theorem setClass_fSync (k : PayloadClass) (s : State) : (setClass k s).fSync = s.fSync := rfl
@[simp] theorem setClass_fAddr (k : PayloadClass) (s : State) : (setClass k s).fAddr = s.fAddr := rfl
@[simp] theorem setClass_fLen (k : PayloadClass) (s : State) : (setClass k s).fLen = s.fLen := rfl
@[simp] theorem setClass_fCrc (k : PayloadClass) (s : State) : (setClass k s).fCrc = s.fCrc := rfl
@[simp] theorem setClass_payLen (k : PayloadClass) (s : State) : (setClass k s).payLen = s.payLen := rfl
@[simp] theorem setClass_pbuf (k : PayloadClass) (s : State) : (setClass k s).pbuf = s.pbuf := rfl
@[simp] theorem setClass_txbuf (k : PayloadClass) (s : State) : (setClass k s).txbuf = s.txbuf := rfl
@[simp] theorem setClass_rxbuf (k : PayloadClass) (s : State) : (setClass k s).rxbuf = s.rxbuf := rfl
@[simp] theorem setClass_reply (k : PayloadClass) (s : State) : (setClass k s).reply = s.reply := rfl
@[simp] theorem setClass_inputs (k : PayloadClass) (s : State) : (setClass k s).inputs = s.inputs := rfl

/-! `invalidateFrame`: `InvalidateFrame()`. -/

@[simp] theorem invalidateFrame_err (s : State) : (invalidateFrame s).err = s.err := rfl
@[simp] theorem invalidateFrame_txValid (s : State) : (invalidateFrame s).txValid = s.txValid := rfl
@[simp] theorem invalidateFrame_fValid (s : State) : (invalidateFrame s).fValid = false := rfl
@[simp] theorem invalidateFrame_cls (s : State) : (invalidateFrame s).cls = 0#2 := rfl
@[simp] theorem invalidateFrame_din (s : State) : (invalidateFrame s).din = s.din := rfl
@[simp] theorem invalidateFrame_crc (s : State) : (invalidateFrame s).crc = s.crc := rfl
@[simp] theorem invalidateFrame_syncVal (s : State) : (invalidateFrame s).syncVal = s.syncVal := rfl
@[simp] theorem invalidateFrame_addrVal (s : State) : (invalidateFrame s).addrVal = s.addrVal := rfl
@[simp] theorem invalidateFrame_opcode (s : State) : (invalidateFrame s).opcode = s.opcode := rfl
@[simp] theorem invalidateFrame_plen (s : State) : (invalidateFrame s).plen = s.plen := rfl
@[simp] theorem invalidateFrame_txLen (s : State) : (invalidateFrame s).txLen = s.txLen := rfl
@[simp] theorem invalidateFrame_rxLen (s : State) : (invalidateFrame s).rxLen = s.rxLen := rfl
@[simp] theorem invalidateFrame_fSync (s : State) : (invalidateFrame s).fSync = 0#8 := rfl
@[simp] theorem invalidateFrame_fAddr (s : State) : (invalidateFrame s).fAddr = 0#8 := rfl
@[simp] theorem invalidateFrame_fLen (s : State) : (invalidateFrame s).fLen = 0#8 := rfl
@[simp] theorem invalidateFrame_fCrc (s : State) : (invalidateFrame s).fCrc = 0#16 := rfl
@[simp] theorem invalidateFrame_payLen (s : State) : (invalidateFrame s).payLen = 0#8 := rfl
@[simp] theorem invalidateFrame_pbuf (s : State) : (invalidateFrame s).pbuf = s.pbuf := rfl
@[simp] theorem invalidateFrame_txbuf (s : State) : (invalidateFrame s).txbuf = s.txbuf := rfl
@[simp] theorem invalidateFrame_rxbuf (s : State) : (invalidateFrame s).rxbuf = s.rxbuf := rfl
@[simp] theorem invalidateFrame_reply (s : State) : (invalidateFrame s).reply = s.reply := rfl
@[simp] theorem invalidateFrame_inputs (s : State) : (invalidateFrame s).inputs = s.inputs := rfl

/-! `noReply`: nothing returned. -/

@[simp] theorem noReply_err (s : State) : (noReply s).err = s.err := rfl
@[simp] theorem noReply_txValid (s : State) : (noReply s).txValid = s.txValid := rfl
@[simp] theorem noReply_fValid (s : State) : (noReply s).fValid = s.fValid := rfl
@[simp] theorem noReply_cls (s : State) : (noReply s).cls = s.cls := rfl
@[simp] theorem noReply_din (s : State) : (noReply s).din = s.din := rfl
@[simp] theorem noReply_crc (s : State) : (noReply s).crc = s.crc := rfl
@[simp] theorem noReply_syncVal (s : State) : (noReply s).syncVal = s.syncVal := rfl
@[simp] theorem noReply_addrVal (s : State) : (noReply s).addrVal = s.addrVal := rfl
@[simp] theorem noReply_opcode (s : State) : (noReply s).opcode = s.opcode := rfl
@[simp] theorem noReply_plen (s : State) : (noReply s).plen = s.plen := rfl
@[simp] theorem noReply_txLen (s : State) : (noReply s).txLen = s.txLen := rfl
@[simp] theorem noReply_rxLen (s : State) : (noReply s).rxLen = s.rxLen := rfl
@[simp] theorem noReply_fSync (s : State) : (noReply s).fSync = s.fSync := rfl
@[simp] theorem noReply_fAddr (s : State) : (noReply s).fAddr = s.fAddr := rfl
@[simp] theorem noReply_fLen (s : State) : (noReply s).fLen = s.fLen := rfl
@[simp] theorem noReply_fCrc (s : State) : (noReply s).fCrc = s.fCrc := rfl
@[simp] theorem noReply_payLen (s : State) : (noReply s).payLen = s.payLen := rfl
@[simp] theorem noReply_pbuf (s : State) : (noReply s).pbuf = s.pbuf := rfl
@[simp] theorem noReply_txbuf (s : State) : (noReply s).txbuf = s.txbuf := rfl
@[simp] theorem noReply_rxbuf (s : State) : (noReply s).rxbuf = s.rxbuf := rfl
@[simp] theorem noReply_reply (s : State) : (noReply s).reply = .none := rfl
@[simp] theorem noReply_inputs (s : State) : (noReply s).inputs = s.inputs := rfl

/-! `replyReg`: 16 bits returned. -/

@[simp] theorem replyReg_err (v : Half) (s : State) : (replyReg v s).err = s.err := rfl
@[simp] theorem replyReg_txValid (v : Half) (s : State) : (replyReg v s).txValid = s.txValid := rfl
@[simp] theorem replyReg_fValid (v : Half) (s : State) : (replyReg v s).fValid = s.fValid := rfl
@[simp] theorem replyReg_cls (v : Half) (s : State) : (replyReg v s).cls = s.cls := rfl
@[simp] theorem replyReg_din (v : Half) (s : State) : (replyReg v s).din = s.din := rfl
@[simp] theorem replyReg_crc (v : Half) (s : State) : (replyReg v s).crc = s.crc := rfl
@[simp] theorem replyReg_syncVal (v : Half) (s : State) : (replyReg v s).syncVal = s.syncVal := rfl
@[simp] theorem replyReg_addrVal (v : Half) (s : State) : (replyReg v s).addrVal = s.addrVal := rfl
@[simp] theorem replyReg_opcode (v : Half) (s : State) : (replyReg v s).opcode = s.opcode := rfl
@[simp] theorem replyReg_plen (v : Half) (s : State) : (replyReg v s).plen = s.plen := rfl
@[simp] theorem replyReg_txLen (v : Half) (s : State) : (replyReg v s).txLen = s.txLen := rfl
@[simp] theorem replyReg_rxLen (v : Half) (s : State) : (replyReg v s).rxLen = s.rxLen := rfl
@[simp] theorem replyReg_fSync (v : Half) (s : State) : (replyReg v s).fSync = s.fSync := rfl
@[simp] theorem replyReg_fAddr (v : Half) (s : State) : (replyReg v s).fAddr = s.fAddr := rfl
@[simp] theorem replyReg_fLen (v : Half) (s : State) : (replyReg v s).fLen = s.fLen := rfl
@[simp] theorem replyReg_fCrc (v : Half) (s : State) : (replyReg v s).fCrc = s.fCrc := rfl
@[simp] theorem replyReg_payLen (v : Half) (s : State) : (replyReg v s).payLen = s.payLen := rfl
@[simp] theorem replyReg_pbuf (v : Half) (s : State) : (replyReg v s).pbuf = s.pbuf := rfl
@[simp] theorem replyReg_txbuf (v : Half) (s : State) : (replyReg v s).txbuf = s.txbuf := rfl
@[simp] theorem replyReg_rxbuf (v : Half) (s : State) : (replyReg v s).rxbuf = s.rxbuf := rfl
@[simp] theorem replyReg_reply (v : Half) (s : State) : (replyReg v s).reply = .reg v := rfl
@[simp] theorem replyReg_inputs (v : Half) (s : State) : (replyReg v s).inputs = s.inputs := rfl

/-! `replyByte`: 8 bits returned. -/

@[simp] theorem replyByte_err (b : Byte) (s : State) : (replyByte b s).err = s.err := rfl
@[simp] theorem replyByte_txValid (b : Byte) (s : State) : (replyByte b s).txValid = s.txValid := rfl
@[simp] theorem replyByte_fValid (b : Byte) (s : State) : (replyByte b s).fValid = s.fValid := rfl
@[simp] theorem replyByte_cls (b : Byte) (s : State) : (replyByte b s).cls = s.cls := rfl
@[simp] theorem replyByte_din (b : Byte) (s : State) : (replyByte b s).din = s.din := rfl
@[simp] theorem replyByte_crc (b : Byte) (s : State) : (replyByte b s).crc = s.crc := rfl
@[simp] theorem replyByte_syncVal (b : Byte) (s : State) : (replyByte b s).syncVal = s.syncVal := rfl
@[simp] theorem replyByte_addrVal (b : Byte) (s : State) : (replyByte b s).addrVal = s.addrVal := rfl
@[simp] theorem replyByte_opcode (b : Byte) (s : State) : (replyByte b s).opcode = s.opcode := rfl
@[simp] theorem replyByte_plen (b : Byte) (s : State) : (replyByte b s).plen = s.plen := rfl
@[simp] theorem replyByte_txLen (b : Byte) (s : State) : (replyByte b s).txLen = s.txLen := rfl
@[simp] theorem replyByte_rxLen (b : Byte) (s : State) : (replyByte b s).rxLen = s.rxLen := rfl
@[simp] theorem replyByte_fSync (b : Byte) (s : State) : (replyByte b s).fSync = s.fSync := rfl
@[simp] theorem replyByte_fAddr (b : Byte) (s : State) : (replyByte b s).fAddr = s.fAddr := rfl
@[simp] theorem replyByte_fLen (b : Byte) (s : State) : (replyByte b s).fLen = s.fLen := rfl
@[simp] theorem replyByte_fCrc (b : Byte) (s : State) : (replyByte b s).fCrc = s.fCrc := rfl
@[simp] theorem replyByte_payLen (b : Byte) (s : State) : (replyByte b s).payLen = s.payLen := rfl
@[simp] theorem replyByte_pbuf (b : Byte) (s : State) : (replyByte b s).pbuf = s.pbuf := rfl
@[simp] theorem replyByte_txbuf (b : Byte) (s : State) : (replyByte b s).txbuf = s.txbuf := rfl
@[simp] theorem replyByte_rxbuf (b : Byte) (s : State) : (replyByte b s).rxbuf = s.rxbuf := rfl
@[simp] theorem replyByte_reply (b : Byte) (s : State) : (replyByte b s).reply = .byte b := rfl
@[simp] theorem replyByte_inputs (b : Byte) (s : State) : (replyByte b s).inputs = s.inputs := rfl

/-! `complete`: a command ends without error. -/

@[simp] theorem complete_err (s : State) : (complete s).err = 0#4 := rfl
@[simp] theorem complete_txValid (s : State) : (complete s).txValid = s.txValid := rfl
@[simp] theorem complete_fValid (s : State) : (complete s).fValid = s.fValid := rfl
@[simp] theorem complete_cls (s : State) : (complete s).cls = s.cls := rfl
@[simp] theorem complete_din (s : State) : (complete s).din = s.din := rfl
@[simp] theorem complete_crc (s : State) : (complete s).crc = s.crc := rfl
@[simp] theorem complete_syncVal (s : State) : (complete s).syncVal = s.syncVal := rfl
@[simp] theorem complete_addrVal (s : State) : (complete s).addrVal = s.addrVal := rfl
@[simp] theorem complete_opcode (s : State) : (complete s).opcode = s.opcode := rfl
@[simp] theorem complete_plen (s : State) : (complete s).plen = s.plen := rfl
@[simp] theorem complete_txLen (s : State) : (complete s).txLen = s.txLen := rfl
@[simp] theorem complete_rxLen (s : State) : (complete s).rxLen = s.rxLen := rfl
@[simp] theorem complete_fSync (s : State) : (complete s).fSync = s.fSync := rfl
@[simp] theorem complete_fAddr (s : State) : (complete s).fAddr = s.fAddr := rfl
@[simp] theorem complete_fLen (s : State) : (complete s).fLen = s.fLen := rfl
@[simp] theorem complete_fCrc (s : State) : (complete s).fCrc = s.fCrc := rfl
@[simp] theorem complete_payLen (s : State) : (complete s).payLen = s.payLen := rfl
@[simp] theorem complete_pbuf (s : State) : (complete s).pbuf = s.pbuf := rfl
@[simp] theorem complete_txbuf (s : State) : (complete s).txbuf = s.txbuf := rfl
@[simp] theorem complete_rxbuf (s : State) : (complete s).rxbuf = s.rxbuf := rfl
@[simp] theorem complete_reply (s : State) : (complete s).reply = .none := rfl
@[simp] theorem complete_inputs (s : State) : (complete s).inputs = s.inputs := rfl

/-! `raise`: a command ends in an error. -/

@[simp] theorem raise_err (e : Err) (s : State) : (raise e s).err = errCode e := rfl
@[simp] theorem raise_txValid (e : Err) (s : State) : (raise e s).txValid = s.txValid := rfl
@[simp] theorem raise_fValid (e : Err) (s : State) : (raise e s).fValid = s.fValid := rfl
@[simp] theorem raise_cls (e : Err) (s : State) : (raise e s).cls = s.cls := rfl
@[simp] theorem raise_din (e : Err) (s : State) : (raise e s).din = s.din := rfl
@[simp] theorem raise_crc (e : Err) (s : State) : (raise e s).crc = s.crc := rfl
@[simp] theorem raise_syncVal (e : Err) (s : State) : (raise e s).syncVal = s.syncVal := rfl
@[simp] theorem raise_addrVal (e : Err) (s : State) : (raise e s).addrVal = s.addrVal := rfl
@[simp] theorem raise_opcode (e : Err) (s : State) : (raise e s).opcode = s.opcode := rfl
@[simp] theorem raise_plen (e : Err) (s : State) : (raise e s).plen = s.plen := rfl
@[simp] theorem raise_txLen (e : Err) (s : State) : (raise e s).txLen = s.txLen := rfl
@[simp] theorem raise_rxLen (e : Err) (s : State) : (raise e s).rxLen = s.rxLen := rfl
@[simp] theorem raise_fSync (e : Err) (s : State) : (raise e s).fSync = s.fSync := rfl
@[simp] theorem raise_fAddr (e : Err) (s : State) : (raise e s).fAddr = s.fAddr := rfl
@[simp] theorem raise_fLen (e : Err) (s : State) : (raise e s).fLen = s.fLen := rfl
@[simp] theorem raise_fCrc (e : Err) (s : State) : (raise e s).fCrc = s.fCrc := rfl
@[simp] theorem raise_payLen (e : Err) (s : State) : (raise e s).payLen = s.payLen := rfl
@[simp] theorem raise_pbuf (e : Err) (s : State) : (raise e s).pbuf = s.pbuf := rfl
@[simp] theorem raise_txbuf (e : Err) (s : State) : (raise e s).txbuf = s.txbuf := rfl
@[simp] theorem raise_rxbuf (e : Err) (s : State) : (raise e s).rxbuf = s.rxbuf := rfl
@[simp] theorem raise_reply (e : Err) (s : State) : (raise e s).reply = .none := rfl
@[simp] theorem raise_inputs (e : Err) (s : State) : (raise e s).inputs = s.inputs := rfl

/-! `acceptFrame`: the frame registers of an accepted frame. -/

@[simp] theorem acceptFrame_err (B : List Byte) (t : Half) (s : State) : (acceptFrame B t s).err = s.err := rfl
@[simp] theorem acceptFrame_txValid (B : List Byte) (t : Half) (s : State) : (acceptFrame B t s).txValid = s.txValid := rfl
@[simp] theorem acceptFrame_fValid (B : List Byte) (t : Half) (s : State) : (acceptFrame B t s).fValid = true := rfl
@[simp] theorem acceptFrame_cls (B : List Byte) (t : Half) (s : State) : (acceptFrame B t s).cls = s.cls := rfl
@[simp] theorem acceptFrame_din (B : List Byte) (t : Half) (s : State) : (acceptFrame B t s).din = s.din := rfl
@[simp] theorem acceptFrame_crc (B : List Byte) (t : Half) (s : State) : (acceptFrame B t s).crc = s.crc := rfl
@[simp] theorem acceptFrame_syncVal (B : List Byte) (t : Half) (s : State) : (acceptFrame B t s).syncVal = s.syncVal := rfl
@[simp] theorem acceptFrame_addrVal (B : List Byte) (t : Half) (s : State) : (acceptFrame B t s).addrVal = s.addrVal := rfl
@[simp] theorem acceptFrame_opcode (B : List Byte) (t : Half) (s : State) : (acceptFrame B t s).opcode = s.opcode := rfl
@[simp] theorem acceptFrame_plen (B : List Byte) (t : Half) (s : State) : (acceptFrame B t s).plen = s.plen := rfl
@[simp] theorem acceptFrame_txLen (B : List Byte) (t : Half) (s : State) : (acceptFrame B t s).txLen = s.txLen := rfl
@[simp] theorem acceptFrame_rxLen (B : List Byte) (t : Half) (s : State) : (acceptFrame B t s).rxLen = s.rxLen := rfl
@[simp] theorem acceptFrame_fSync (B : List Byte) (t : Half) (s : State) : (acceptFrame B t s).fSync = B.getD 0 0#8 := rfl
@[simp] theorem acceptFrame_fAddr (B : List Byte) (t : Half) (s : State) : (acceptFrame B t s).fAddr = B.getD 1 0#8 := rfl
@[simp] theorem acceptFrame_fLen (B : List Byte) (t : Half) (s : State) : (acceptFrame B t s).fLen = B.getD 2 0#8 := rfl
@[simp] theorem acceptFrame_fCrc (B : List Byte) (t : Half) (s : State) : (acceptFrame B t s).fCrc = t := rfl
@[simp] theorem acceptFrame_payLen (B : List Byte) (t : Half) (s : State) : (acceptFrame B t s).payLen = BitVec.ofNat 8 (B.length - 5) := rfl
@[simp] theorem acceptFrame_pbuf (B : List Byte) (t : Half) (s : State) : (acceptFrame B t s).pbuf = s.pbuf := rfl
@[simp] theorem acceptFrame_txbuf (B : List Byte) (t : Half) (s : State) : (acceptFrame B t s).txbuf = s.txbuf := rfl
@[simp] theorem acceptFrame_rxbuf (B : List Byte) (t : Half) (s : State) : (acceptFrame B t s).rxbuf = s.rxbuf := rfl
@[simp] theorem acceptFrame_reply (B : List Byte) (t : Half) (s : State) : (acceptFrame B t s).reply = s.reply := rfl
@[simp] theorem acceptFrame_inputs (B : List Byte) (t : Half) (s : State) : (acceptFrame B t s).inputs = s.inputs := rfl

/-! `placeInput`: an input issued. -/

@[simp] theorem placeInput_err (i : Input) (s : State) : (placeInput i s).err = s.err := rfl
@[simp] theorem placeInput_txValid (i : Input) (s : State) : (placeInput i s).txValid = s.txValid := rfl
@[simp] theorem placeInput_fValid (i : Input) (s : State) : (placeInput i s).fValid = s.fValid := rfl
@[simp] theorem placeInput_cls (i : Input) (s : State) : (placeInput i s).cls = s.cls := rfl
@[simp] theorem placeInput_din (i : Input) (s : State) : (placeInput i s).din = s.din := rfl
@[simp] theorem placeInput_crc (i : Input) (s : State) : (placeInput i s).crc = s.crc := rfl
@[simp] theorem placeInput_syncVal (i : Input) (s : State) : (placeInput i s).syncVal = s.syncVal := rfl
@[simp] theorem placeInput_addrVal (i : Input) (s : State) : (placeInput i s).addrVal = s.addrVal := rfl
@[simp] theorem placeInput_opcode (i : Input) (s : State) : (placeInput i s).opcode = s.opcode := rfl
@[simp] theorem placeInput_plen (i : Input) (s : State) : (placeInput i s).plen = s.plen := rfl
@[simp] theorem placeInput_txLen (i : Input) (s : State) : (placeInput i s).txLen = s.txLen := rfl
@[simp] theorem placeInput_rxLen (i : Input) (s : State) : (placeInput i s).rxLen = s.rxLen := rfl
@[simp] theorem placeInput_fSync (i : Input) (s : State) : (placeInput i s).fSync = s.fSync := rfl
@[simp] theorem placeInput_fAddr (i : Input) (s : State) : (placeInput i s).fAddr = s.fAddr := rfl
@[simp] theorem placeInput_fLen (i : Input) (s : State) : (placeInput i s).fLen = s.fLen := rfl
@[simp] theorem placeInput_fCrc (i : Input) (s : State) : (placeInput i s).fCrc = s.fCrc := rfl
@[simp] theorem placeInput_payLen (i : Input) (s : State) : (placeInput i s).payLen = s.payLen := rfl
@[simp] theorem placeInput_pbuf (i : Input) (s : State) : (placeInput i s).pbuf = s.pbuf := rfl
@[simp] theorem placeInput_txbuf (i : Input) (s : State) : (placeInput i s).txbuf = s.txbuf := rfl
@[simp] theorem placeInput_rxbuf (i : Input) (s : State) : (placeInput i s).rxbuf = s.rxbuf := rfl
@[simp] theorem placeInput_reply (i : Input) (s : State) : (placeInput i s).reply = s.reply := rfl
@[simp] theorem placeInput_inputs (i : Input) (s : State) : (placeInput i s).inputs = i :: s.inputs := rfl

end Sys2Proof.Machine
end

