-- ==== Sys2Proof/Laws/Commands.lean ====
section
/-! SUPPORT. What each shared operation can do, said once: the outcomes of the commands that read buffers, and of a step. -/

namespace Sys2Proof.Machine

/-- The received buffer reads as `B` exactly when `RXBUF` holds `B` and `RXLEN` is its length. -/
theorem rxBytes_ok_iff (s : State) (B : List Byte) :
    rxBytes s = .ok B ↔ B.length = s.rxLen.toNat ∧ Holds s.rxbuf B := readRange_zero_iff ..

/-- The parameters read as `params` exactly when `PBUF` holds them and `PLEN` is their number. -/
theorem paramBytes_ok_iff (s : State) (params : List Byte) :
    paramBytes s = .ok params ↔ params.length = s.plen.toNat ∧ Holds s.pbuf params := readRange_zero_iff ..

/-- The encoded frame reads as `f` exactly when `TXBUF` holds it and `TXLEN` is its length. -/
theorem txBytes_ok_iff (s : State) (f : List Byte) :
    txBytes s = .ok f ↔ f.length = s.txLen.toNat ∧ Holds s.txbuf f := readRange_zero_iff ..

/-- The state of `DECODE` and `VALIDATE` once the checksum has been computed over the buffer `B`. -/
def afterChecksum (p : Config) (B : List Byte) (s : State) : State :=
  { invalidateFrame s with crc := crc16 p (B.take (B.length - 2)) }

/-- A buffer below the minimum length: `TooShort`, nothing read. -/
theorem decodeThen_short {p : Config} {s : State} (finish : List Byte → State → State)
    (h : s.rxLen.toNat < p.minFrame) : decodeThen p finish s = .next (raise .tooShort (invalidateFrame s)) := by
  simp [decodeThen, h]

/-- A buffer with an unwritten byte: the fault of the first. -/
theorem decodeThen_unwritten {p : Config} {s : State} {f : Fault} (finish : List Byte → State → State)
    (h : p.minFrame ≤ s.rxLen.toNat) (hf : rxBytes s = .error f) : decodeThen p finish s = .fault f := by
  simp [decodeThen, Nat.not_lt.2 h, hf]

/-- `DECODE` and `VALIDATE` on a buffer that can be read are the function `decode` on its bytes: each error is raised
after the checksum is stored, and the last action runs on the frame registers of the decoded frame. -/
theorem decodeThen_holds {p : Config} {s : State} {B : List Byte} (finish : List Byte → State → State)
    (h : p.minFrame ≤ s.rxLen.toNat) (hl : B.length = s.rxLen.toNat) (hB : Holds s.rxbuf B) :
    decodeThen p finish s =
      match decodeFrame p B with
      | .error e => .next (raise e (afterChecksum p B s))
      | .ok F => .next (finish B (acceptFrame B F.crc16 (afterChecksum p B s))) := by
  have hr : rxBytes s = .ok B := (rxBytes_ok_iff s B).2 ⟨hl, hB⟩
  unfold decodeThen
  rw [if_neg (Nat.not_lt.2 h), hr]
  rcases decodeFrame_cases p B with ⟨h1, e⟩ | ⟨-, h2, e⟩ | ⟨-, h2, h3, e⟩ | ⟨-, h2, h3, e⟩ <;> rw [e]
  · omega
  · simp only [← hl, if_pos h2]; rfl
  · simp only [← hl, if_neg (not_not.2 h2), if_pos h3]; rfl
  · simp only [← hl, if_neg (not_not.2 h2), if_neg (not_not.2 h3)]; rfl

/-- Everything `DECODE` and `VALIDATE` can do. -/
theorem decodeThen_cases (p : Config) (finish : List Byte → State → State) (s : State) :
    (s.rxLen.toNat < p.minFrame ∧ decodeThen p finish s = .next (raise .tooShort (invalidateFrame s))) ∨
    (p.minFrame ≤ s.rxLen.toNat ∧ ∃ f, rxBytes s = .error f ∧ decodeThen p finish s = .fault f) ∨
    (p.minFrame ≤ s.rxLen.toNat ∧ ∃ B, B.length = s.rxLen.toNat ∧ Holds s.rxbuf B ∧
      ((∃ e, e ≠ .tooShort ∧ e ≠ .deviceNak ∧ decodeFrame p B = .error e ∧
          decodeThen p finish s = .next (raise e (afterChecksum p B s))) ∨
       ∃ F, decodeFrame p B = .ok F ∧
          decodeThen p finish s = .next (finish B (acceptFrame B F.crc16 (afterChecksum p B s))))) := by
  by_cases h : s.rxLen.toNat < p.minFrame
  · exact .inl ⟨h, decodeThen_short finish h⟩
  · have h' : p.minFrame ≤ s.rxLen.toNat := by omega
    refine .inr ?_
    cases hr : rxBytes s with
    | error f => exact .inl ⟨h', f, rfl, decodeThen_unwritten finish h' hr⟩
    | ok B =>
      obtain ⟨hl, hB⟩ := (rxBytes_ok_iff s B).1 hr
      refine .inr ⟨h', B, hl, hB, ?_⟩
      have hd := decodeThen_holds finish h' hl hB
      rcases decodeFrame_cases p B with ⟨h1, e⟩ | ⟨-, -, e⟩ | ⟨-, -, -, e⟩ | ⟨-, -, -, e⟩ <;> rw [e] at hd ⊢
      · omega
      · exact .inl ⟨_, by decide, by decide, rfl, hd⟩
      · exact .inl ⟨_, by decide, by decide, rfl, hd⟩
      · exact .inr ⟨_, rfl, hd⟩

/-- Everything the last action of `VALIDATE` can do. -/
theorem finishValidate_cases (B : List Byte) (s : State) :
    (s.payLen = 1#8 ∧ B.getD 3 0#8 = ackByte ∧ finishValidate B s = complete (setClass .ack s)) ∨
    (s.payLen = 1#8 ∧ B.getD 3 0#8 = nakByte ∧ finishValidate B s = raise .deviceNak (setClass .nak s)) ∨
    (¬ (s.payLen = 1#8 ∧ (B.getD 3 0#8 = ackByte ∨ B.getD 3 0#8 = nakByte)) ∧
      finishValidate B s = complete (setClass .data s)) := by
  unfold finishValidate
  by_cases h1 : s.payLen = 1#8 ∧ B.getD 3 0#8 = ackByte
  · rw [if_pos h1]; exact .inl ⟨h1.1, h1.2, rfl⟩
  · rw [if_neg h1]
    by_cases h2 : s.payLen = 1#8 ∧ B.getD 3 0#8 = nakByte
    · rw [if_pos h2]; exact .inr (.inl ⟨h2.1, h2.2, rfl⟩)
    · rw [if_neg h2]
      exact .inr (.inr ⟨fun h => h.2.elim (fun h' => h1 ⟨h.1, h'⟩) (fun h' => h2 ⟨h.1, h'⟩), rfl⟩)

/-- Everything `ENCODE` can do. -/
theorem runEncode_cases (p : Config) (s : State) :
    (maxParams < s.plen.toNat ∧ runEncode p s = .next (raise .tooLong { s with txValid := false, txLen := 0#8 })) ∨
    (s.plen.toNat ≤ maxParams ∧ ∃ f, paramBytes s = .error f ∧ runEncode p s = .fault f) ∨
    (s.plen.toNat ≤ maxParams ∧ ∃ params, params.length = s.plen.toNat ∧ Holds s.pbuf params ∧
      runEncode p s = .next (encodeOk p s params)) := by
  by_cases h : s.plen.toNat > maxParams
  · exact .inl ⟨h, by simp [runEncode, h]⟩
  · refine .inr ?_
    cases hr : paramBytes s with
    | error f => exact .inl ⟨by omega, f, rfl, by simp [runEncode, h, hr]⟩
    | ok params =>
      obtain ⟨hl, hB⟩ := (paramBytes_ok_iff s params).1 hr
      exact .inr ⟨by omega, params, hl, hB, by simp [runEncode, h, hr]⟩

/-- The body `ENCODE` writes is the body of the frame of the Command. -/
theorem encodeBody_eq {s : State} {params : List Byte} (h : params.length = s.plen.toNat) :
    encodeBody s params = frameBody s.syncVal s.addrVal (s.opcode :: params) := by
  unfold encodeBody frameBody hdrLen trlLen
  rw [List.length_cons, h, show 3 + (s.plen.toNat + 1) + 2 = 6 + s.plen.toNat by omega]
  rfl

/-- `TXBUF` after a successful `ENCODE`: the frame, and the old bytes beyond it (41_encode.md R101). -/
theorem encodeOk_txbuf_read {p : Config} {s : State} {params : List Byte} (h : params.length = s.plen.toNat) (j : Nat) :
    (encodeOk p s params).txbuf.read j =
      if j < 6 + s.plen.toNat then
        some ((buildFrame p s.syncVal s.addrVal (s.opcode :: params)).getD j 0#8)
      else s.txbuf.read j := by
  have hb : (frameBody s.syncVal s.addrVal (s.opcode :: params)).length = 4 + s.plen.toNat := by
    simp [h]; omega
  show ((s.txbuf.writeBytes 0 (encodeBody s params)).writeBytes (6 + s.plen.toNat - 2)
    (trailerBytes p (crc16 p (encodeBody s params)))).read j = _
  rw [encodeBody_eq h, Memory.read_writeBytes, Memory.read_writeBytes, trailerBytes_length, hb]
  unfold buildFrame
  by_cases h1 : j < 4 + s.plen.toNat
  · rw [if_neg (by omega), if_pos (by omega), if_pos (by omega), List.getD_append _ _ _ _ (by omega)]
    simp
  · by_cases h2 : j < 6 + s.plen.toNat
    · rw [if_pos (by omega), if_pos h2, List.getD_append_right _ _ _ _ (by omega), hb,
        show j - (6 + s.plen.toNat - 2) = j - (4 + s.plen.toNat) by omega]
    · rw [if_neg (by omega), if_neg (by omega), if_neg h2]

/-- Everything `CRC.BUF` can do. -/
theorem runCrcBuf_cases (p : Config) (s : State) :
    (∃ f, rxBytes s = .error f ∧ runCrcBuf p s = .fault f) ∨
    (∃ B, B.length = s.rxLen.toNat ∧ Holds s.rxbuf B ∧
      runCrcBuf p s = .next (complete { s with crc := crc16 p B })) := by
  cases hr : rxBytes s with
  | error f => exact .inl ⟨f, rfl, by simp [runCrcBuf, hr]⟩
  | ok B =>
    obtain ⟨hl, hB⟩ := (rxBytes_ok_iff s B).1 hr
    exact .inr ⟨B, hl, hB, by simp [runCrcBuf, hr]⟩

/-- Everything the load of a link frame can do. -/
theorem loadBuffer_cases (bytes : List Byte) (s : State) :
    (bytes.length ≤ 255 ∧ loadBuffer bytes s = .next (noReply (invalidateFrame
      { s with rxbuf := s.rxbuf.writeBytes 0 bytes, rxLen := BitVec.ofNat 8 bytes.length }))) ∨
    (255 < bytes.length ∧ loadBuffer bytes s = .refused .bufferTooLong) := by
  by_cases h : bytes.length ≤ maxFrame
  · exact .inl ⟨h, by simp [loadBuffer, h]⟩
  · exact .inr ⟨Nat.not_le.1 h, by simp [loadBuffer, h]⟩

/-- A `WR` to a register other than `CMD` answers a next state that differs from the old one in that register, in the
decode result for `RXLEN`, and in the value returned. -/
theorem regWrite_cases (p : Config) {r : Reg} (hr : r ≠ .cmd) (d : Half) (s : State) :
    (r = .din ∧ regWrite p r d s = .next (noReply { s with din := lowByte d })) ∨
    (r = .syncVal ∧ regWrite p r d s = .next (noReply { s with syncVal := lowByte d })) ∨
    (r = .addrVal ∧ regWrite p r d s = .next (noReply { s with addrVal := lowByte d })) ∨
    (r = .opcode ∧ regWrite p r d s = .next (noReply { s with opcode := lowByte d })) ∨
    (r = .plen ∧ regWrite p r d s = .next (noReply { s with plen := lowByte d })) ∨
    (r = .rxLen ∧ regWrite p r d s = .next (noReply (invalidateFrame { s with rxLen := lowByte d }))) ∨
    (r ∈ [Reg.status, .crc, .txLen, .fSync, .fAddr, .fLen, .fCrc, .payLen] ∧ regWrite p r d s = .next (noReply s)) := by
  cases r <;> simp [regWrite] at hr ⊢

/-- A `WR` to `CMD` runs the command of its code or raises `IllegalCommand`. -/
theorem runCommand_cases (p : Config) (v : Byte) (s : State) :
    (v = 1#8 ∧ runCommand p v s = runCrcClr p s) ∨ (v = 2#8 ∧ runCommand p v s = runCrcUpd p s) ∨
    (v = 3#8 ∧ runCommand p v s = runCrcBuf p s) ∨ (v = 4#8 ∧ runCommand p v s = runEncode p s) ∨
    (v = 5#8 ∧ runCommand p v s = runDecode p s) ∨ (v = 6#8 ∧ runCommand p v s = runValidate p s) ∨
    (commandOfCode v = none ∧ runCommand p v s = .next (raise .illegalCommand s)) := by
  have key : v = 1#8 ∨ v = 2#8 ∨ v = 3#8 ∨ v = 4#8 ∨ v = 5#8 ∨ v = 6#8 ∨ commandOfCode v = none := by
    revert v; decide
  rcases key with rfl | rfl | rfl | rfl | rfl | rfl | h
  · exact .inl ⟨rfl, rfl⟩
  · exact .inr (.inl ⟨rfl, rfl⟩)
  · exact .inr (.inr (.inl ⟨rfl, rfl⟩))
  · exact .inr (.inr (.inr (.inl ⟨rfl, rfl⟩)))
  · exact .inr (.inr (.inr (.inr (.inl ⟨rfl, rfl⟩))))
  · exact .inr (.inr (.inr (.inr (.inr (.inl ⟨rfl, rfl⟩)))))
  · exact .inr (.inr (.inr (.inr (.inr (.inr ⟨h, by simp [runCommand, h, illegalCommand]⟩)))))

/-- Everything a step can do, with any decoder and any meanings. -/
theorem stepBy_cases (dec : Input → Except Malformed Instr) (run : Instr → State → Result) (s : State) :
    (s.inputs = [] ∧ stepBy dec run s = .next s) ∨
    (∃ inp rest why, s.inputs = inp :: rest ∧ dec inp = .error why ∧ stepBy dec run s = .refused (.malformed why)) ∨
    (∃ inp rest i, s.inputs = inp :: rest ∧ dec inp = .ok i ∧ stepBy dec run s = run i { s with inputs := rest }) := by
  cases h : s.inputs with
  | nil => exact .inl ⟨rfl, by simp [stepBy, takeInput, h]⟩
  | cons inp rest =>
    refine .inr ?_
    cases hd : dec inp with
    | error why => exact .inl ⟨inp, rest, why, rfl, hd, by simp [stepBy, takeInput, h, hd]⟩
    | ok i => exact .inr ⟨inp, rest, i, rfl, hd, by simp [stepBy, takeInput, h, hd]⟩

/-- Everything a step of this block can do. -/
theorem step_cases (s : State) :
    (s.inputs = [] ∧ step s = .next s) ∨
    (∃ inp rest why, s.inputs = inp :: rest ∧ Sys2Proof.decode inp = .error why ∧ step s = .refused (.malformed why)) ∨
    (∃ inp rest i, s.inputs = inp :: rest ∧ Sys2Proof.decode inp = .ok i ∧
      step s = exec i { s with inputs := rest }) := stepBy_cases Sys2Proof.decode exec s

end Sys2Proof.Machine
end

