-- ==== Sys2Proof/Laws/Decode.lean ====
section
/-! SUPPORT. The laws of the encodings: the fields of a word that `mkWord` builds, and the number tables read both ways. -/

namespace Sys2Proof

open Sys2Proof.Machine

/-- Bit `i` of a word with given fields. -/
theorem getLsbD_mkWord (k sp : BitVec 2) (a : Byte) (d : Half) (i : Nat) :
    (mkWord k sp a d).getLsbD i =
      if i < 16 then d.getLsbD i
      else if i < 24 then a.getLsbD (i - 16)
      else if i < 28 then false
      else if i < 30 then sp.getLsbD (i - 28)
      else k.getLsbD (i - 30) := by
  have h : (mkWord k sp a d).getLsbD i =
      (if i < 16 then d.getLsbD i else (k ++ sp ++ 0#4 ++ a).getLsbD (i - 16)) := BitVec.getLsbD_append
  rw [h, BitVec.getLsbD_append, BitVec.getLsbD_append, BitVec.getLsbD_append]
  by_cases h1 : i < 16
  · simp [h1]
  · by_cases h2 : i < 24
    · simp [h1, h2, show i - 16 < 8 by omega]
    · by_cases h3 : i < 28
      · simp [h1, h2, h3, show ¬ i - 16 < 8 by omega, show i - 16 - 8 < 4 by omega]
      · by_cases h4 : i < 30
        · simp [h1, h2, h3, h4, show ¬ i - 16 < 8 by omega, show ¬ i - 16 - 8 < 4 by omega,
            show i - 16 - 8 - 4 = i - 28 by omega, show i - 28 < 2 by omega]
        · simp [h1, h2, h3, h4, show ¬ i - 16 < 8 by omega, show ¬ i - 16 - 8 < 4 by omega,
            show ¬ i - 16 - 8 - 4 < 2 by omega, show i - 16 - 8 - 4 - 2 = i - 30 by omega]

@[simp] theorem wordKind_mkWord (k sp : BitVec 2) (a : Byte) (d : Half) : wordKind (mkWord k sp a d) = k := by
  apply BitVec.eq_of_getLsbD_eq
  intro i hi
  simp only [wordKind, BitVec.getLsbD_extractLsb', getLsbD_mkWord]
  simp [hi, show ¬ 30 + i < 16 by omega, show ¬ 30 + i < 24 by omega, show ¬ 30 + i < 28 by omega]

@[simp] theorem wordSpace_mkWord (k sp : BitVec 2) (a : Byte) (d : Half) : wordSpace (mkWord k sp a d) = sp := by
  apply BitVec.eq_of_getLsbD_eq
  intro i hi
  simp only [wordSpace, BitVec.getLsbD_extractLsb', getLsbD_mkWord]
  simp [hi, show ¬ 28 + i < 16 by omega, show ¬ 28 + i < 24 by omega, show 28 + i < 30 by omega]

@[simp] theorem wordZero_mkWord (k sp : BitVec 2) (a : Byte) (d : Half) : wordZero (mkWord k sp a d) = 0#4 := by
  apply BitVec.eq_of_getLsbD_eq
  intro i hi
  simp only [wordZero, BitVec.getLsbD_extractLsb', getLsbD_mkWord]
  simp [show ¬ 24 + i < 16 by omega, show 24 + i < 28 by omega]

@[simp] theorem wordA_mkWord (k sp : BitVec 2) (a : Byte) (d : Half) : wordA (mkWord k sp a d) = a := by
  apply BitVec.eq_of_getLsbD_eq
  intro i hi
  simp only [wordA, BitVec.getLsbD_extractLsb', getLsbD_mkWord]
  simp [hi, show 16 + i < 24 by omega]

@[simp] theorem wordD_mkWord (k sp : BitVec 2) (a : Byte) (d : Half) : wordD (mkWord k sp a d) = d := by
  apply BitVec.eq_of_getLsbD_eq
  intro i hi
  simp only [wordD, BitVec.getLsbD_extractLsb', getLsbD_mkWord]
  simp [hi]

/-- A word whose zero field is 0 is the word with its own fields. -/
theorem mkWord_fields {w : Word} (h : wordZero w = 0#4) :
    mkWord (wordKind w) (wordSpace w) (wordA w) (wordD w) = w := by
  apply BitVec.eq_of_getLsbD_eq
  intro i hi
  have hz : ∀ j, j < 4 → w.getLsbD (24 + j) = false := fun j hj => by
    have := congrArg (fun v => v.getLsbD j) h
    simpa [wordZero, BitVec.getLsbD_extractLsb', hj] using this
  rw [getLsbD_mkWord]
  simp only [wordKind, wordSpace, wordA, wordD, BitVec.getLsbD_extractLsb']
  by_cases h1 : i < 16
  · simp [h1]
  · by_cases h2 : i < 24
    · simp [h1, h2, show i - 16 < 8 by omega, show 16 + (i - 16) = i by omega]
    · by_cases h3 : i < 28
      · have := hz (i - 24) (by omega)
        rw [show 24 + (i - 24) = i by omega] at this
        simp [h1, h2, h3, this]
      · by_cases h4 : i < 30
        · simp [h1, h2, h3, h4, show i - 28 < 2 by omega, show 28 + (i - 28) = i by omega]
        · simp [h1, h2, h3, h4, show i - 30 < 2 by omega, show 30 + (i - 30) = i by omega]

@[simp] theorem regOfNum_regNum (r : Reg) : regOfNum (regNum r) = some r := by cases r <;> rfl

@[simp] theorem spaceOfNum_spaceNum (sp : Space) : spaceOfNum (spaceNum sp) = some sp := by cases sp <;> rfl

@[simp] theorem commandOfCode_commandCode (c : Command) : commandOfCode (commandCode c) = some c := by
  cases c <;> rfl

theorem regNum_of_regOfNum {a : Byte} {r : Reg} (h : regOfNum a = some r) : a = regNum r := by
  revert a
  cases r <;> decide

theorem spaceNum_of_spaceOfNum {n : BitVec 2} {sp : Space} (h : spaceOfNum n = some sp) : n = spaceNum sp := by
  revert n
  cases sp <;> decide

theorem commandCode_of_commandOfCode {v : Byte} {c : Command} (h : commandOfCode v = some c) : v = commandCode c := by
  revert v
  cases c <;> decide

/-- The register numbers that name no register (30_encoding.md R71). -/
theorem regOfNum_eq_none_iff (a : Byte) : regOfNum a = none ↔ 0x0F ≤ a.toNat := by
  revert a; decide

/-- The command codes that name no command (30_encoding.md R70). -/
theorem commandOfCode_eq_none_iff (v : Byte) : commandOfCode v = none ↔ v = 0x00#8 ∨ 0x07 ≤ v.toNat := by
  revert v; decide

theorem spaceOfNum_eq_none_iff (n : BitVec 2) : spaceOfNum n = none ↔ n = 3#2 := by
  revert n; decide

/-- The first `n` bytes of a number are `n` bytes. -/
@[simp] theorem bytesOfNat_length (n w : Nat) : (bytesOfNat n w).length = n := by
  induction n generalizing w with
  | zero => rfl
  | succ n ih => simp [bytesOfNat, ih]

end Sys2Proof
end

