-- ==== Sys2Proof/Laws/Effects.lean ====
section
/-! SUPPORT. The inversion lemma of the machine: every next state an instruction can answer, said once as a relation with one constructor per exit. -/

namespace Sys2Proof.Machine

/-- Every exit of the six commands and of a reserved code, with the state it leaves. -/
inductive CommandEffect (s : State) : Option Command → State → Prop
  | crcClr : CommandEffect s (some .crcClr) (complete { s with crc := fcb.crcInit })
  | crcUpd : CommandEffect s (some .crcUpd) (complete { s with crc := crcStep fcb s.crc s.din })
  | crcBuf (B : List Byte) (hl : B.length = s.rxLen.toNat) (hB : Holds s.rxbuf B) :
      CommandEffect s (some .crcBuf) (complete { s with crc := crc16 fcb B })
  | encodeTooLong (h : maxParams < s.plen.toNat) :
      CommandEffect s (some .encode) (raise .tooLong { s with txValid := false, txLen := 0#8 })
  | encodeOk (params : List Byte) (h : s.plen.toNat ≤ maxParams) (hl : params.length = s.plen.toNat)
      (hB : Holds s.pbuf params) : CommandEffect s (some .encode) (encodeOk fcb s params)
  | short (c : Command) (hc : c = .decode ∨ c = .validate) (h : s.rxLen.toNat < fcb.minFrame) :
      CommandEffect s (some c) (raise .tooShort (invalidateFrame s))
  | bad (c : Command) (hc : c = .decode ∨ c = .validate) (B : List Byte) (e : Err) (h : fcb.minFrame ≤ s.rxLen.toNat)
      (hl : B.length = s.rxLen.toNat) (hB : Holds s.rxbuf B) (hd : decodeFrame fcb B = .error e)
      (he : e = .badChecksum ∨ e = .badLength) : CommandEffect s (some c) (raise e (afterChecksum fcb B s))
  | decoded (B : List Byte) (F : Frame) (h : fcb.minFrame ≤ s.rxLen.toNat) (hl : B.length = s.rxLen.toNat)
      (hB : Holds s.rxbuf B) (hd : decodeFrame fcb B = .ok F) :
      CommandEffect s (some .decode) (complete (acceptFrame B F.crc16 (afterChecksum fcb B s)))
  | classed (B : List Byte) (F : Frame) (h : fcb.minFrame ≤ s.rxLen.toNat) (hl : B.length = s.rxLen.toNat)
      (hB : Holds s.rxbuf B) (hd : decodeFrame fcb B = .ok F) (k : PayloadClass) (hk : k = .ack ∨ k = .data)
      (hcls : classify F.data = k) :
      CommandEffect s (some .validate) (complete (setClass k (acceptFrame B F.crc16 (afterChecksum fcb B s))))
  | nak (B : List Byte) (F : Frame) (h : fcb.minFrame ≤ s.rxLen.toNat) (hl : B.length = s.rxLen.toNat)
      (hB : Holds s.rxbuf B) (hd : decodeFrame fcb B = .ok F) (hcls : classify F.data = .nak) :
      CommandEffect s (some .validate)
        (raise .deviceNak (setClass .nak (acceptFrame B F.crc16 (afterChecksum fcb B s))))
  | illegal : CommandEffect s none (raise .illegalCommand s)

/-- The payload of an accepted frame begins at index 3 of the buffer, and its length is 1 exactly when `PAY_LEN` is 1. -/
theorem payload_of_decodeFrame {B : List Byte} {F : Frame} (hd : decodeFrame fcb B = .ok F) :
    F.data.length = B.length - 5 ∧ 6 ≤ B.length ∧ B.length ≤ 255 ∧ F.data.getD 0 0#8 = B.getD 3 0#8 ∧
      (BitVec.ofNat 8 (B.length - 5) = 1#8 ↔ F.data.length = 1) := by
  obtain ⟨h1, -, h3, rfl⟩ := (decodeFrame_ok_iff fcb B F).1 hd
  have hlt := (B.getD 2 0#8).isLt
  simp only [fcb_minFrame] at h1
  have hlen : ((B.drop 3).take (B.length - 3 - 2)).length = B.length - 5 := by
    rw [List.length_take, List.length_drop]; omega
  refine ⟨hlen, h1, by omega, ?_, ?_⟩
  · simp [List.getD_eq_getElem?_getD, show 0 < B.length - 3 - 2 by omega, show 3 < B.length by omega]
  · rw [hlen]
    constructor
    · intro h
      have := congrArg BitVec.toNat h
      simp only [BitVec.toNat_ofNat] at this
      omega
    · intro h; rw [h]

theorem finishValidate_accept {B : List Byte} {F : Frame} (hd : decodeFrame fcb B = .ok F) (s : State) :
    finishValidate B (acceptFrame B F.crc16 s) =
      match classify F.data with
      | .ack => complete (setClass .ack (acceptFrame B F.crc16 s))
      | .nak => raise .deviceNak (setClass .nak (acceptFrame B F.crc16 s))
      | .data => complete (setClass .data (acceptFrame B F.crc16 s)) := by
  obtain ⟨-, -, -, h0, h1⟩ := payload_of_decodeFrame hd
  unfold finishValidate classify
  simp only [acceptFrame_payLen, h1, h0]
  split
  · rfl
  · split <;> rfl

/-- What a command that answers a next state has done. -/
theorem runCommand_effect {v : Byte} {s t : State} (h : runCommand fcb v s = .next t) :
    CommandEffect s (commandOfCode v) t := by
  rcases runCommand_cases fcb v s with ⟨rfl, e⟩ | ⟨rfl, e⟩ | ⟨rfl, e⟩ | ⟨rfl, e⟩ | ⟨rfl, e⟩ | ⟨rfl, e⟩ | ⟨hv, e⟩ <;>
    rw [e] at h
  · cases h; exact .crcClr
  · cases h; exact .crcUpd
  · rcases runCrcBuf_cases fcb s with ⟨f, -, e⟩ | ⟨B, hl, hB, e⟩ <;> rw [e] at h <;> cases h
    exact .crcBuf B hl hB
  · rcases runEncode_cases fcb s with ⟨hm, e⟩ | ⟨-, f, -, e⟩ | ⟨hm, params, hl, hB, e⟩ <;> rw [e] at h <;> cases h
    · exact .encodeTooLong hm
    · exact .encodeOk params hm hl hB
  · rcases decodeThen_cases fcb finishDecode s with
      ⟨hm, e⟩ | ⟨-, f, -, e⟩ | ⟨hm, B, hl, hB, ⟨e', n1, n2, hd, e⟩ | ⟨F, hd, e⟩⟩ <;> rw [runDecode, e] at h <;> cases h
    · exact .short .decode (.inl rfl) hm
    · refine .bad .decode (.inl rfl) B e' hm hl hB hd ?_
      rcases decodeFrame_cases fcb B with ⟨-, e⟩ | ⟨-, -, e⟩ | ⟨-, -, -, e⟩ | ⟨-, -, -, e⟩ <;> rw [hd] at e <;> cases e <;>
        simp at n1 ⊢
    · exact .decoded B F hm hl hB hd
  · rcases decodeThen_cases fcb finishValidate s with
      ⟨hm, e⟩ | ⟨-, f, -, e⟩ | ⟨hm, B, hl, hB, ⟨e', n1, n2, hd, e⟩ | ⟨F, hd, e⟩⟩ <;> rw [runValidate, e] at h <;> cases h
    · exact .short .validate (.inr rfl) hm
    · refine .bad .validate (.inr rfl) B e' hm hl hB hd ?_
      rcases decodeFrame_cases fcb B with ⟨-, e⟩ | ⟨-, -, e⟩ | ⟨-, -, -, e⟩ | ⟨-, -, -, e⟩ <;> rw [hd] at e <;> cases e <;>
        simp at n1 ⊢
    · rw [finishValidate_accept hd]
      cases hc : classify F.data with
      | ack => exact .classed B F hm hl hB hd .ack (.inl rfl) hc
      | nak => exact .nak B F hm hl hB hd hc
      | data => exact .classed B F hm hl hB hd .data (.inr rfl) hc
  · cases h; rw [hv]; exact .illegal

/-- Every exit of every instruction, with the state it leaves. -/
inductive Effect (s : State) : Instr → State → Prop
  | rd (r : Reg) : Effect s (.rd r) (replyReg (regRead r s) s)
  | wrCmd (d : Half) (t : State) (h : CommandEffect s (commandOfCode (lowByte d)) t) : Effect s (.wr .cmd d) t
  | wrDin (d : Half) : Effect s (.wr .din d) (noReply { s with din := lowByte d })
  | wrSyncVal (d : Half) : Effect s (.wr .syncVal d) (noReply { s with syncVal := lowByte d })
  | wrAddrVal (d : Half) : Effect s (.wr .addrVal d) (noReply { s with addrVal := lowByte d })
  | wrOpcode (d : Half) : Effect s (.wr .opcode d) (noReply { s with opcode := lowByte d })
  | wrPlen (d : Half) : Effect s (.wr .plen d) (noReply { s with plen := lowByte d })
  | wrRxLen (d : Half) : Effect s (.wr .rxLen d) (noReply (invalidateFrame { s with rxLen := lowByte d }))
  | wrIgnored (r : Reg) (d : Half) (hr : r ∈ [Reg.status, .crc, .txLen, .fSync, .fAddr, .fLen, .fCrc, .payLen]) :
      Effect s (.wr r d) (noReply s)
  | rdb (sp : Space) (a b : Byte) (h : memRead sp a.toNat s = some b) : Effect s (.rdb sp a) (replyByte b s)
  | wrbPbuf (a b : Byte) : Effect s (.wrb .pbuf a b) (noReply { s with pbuf := s.pbuf.write a.toNat b })
  | wrbTxbuf (a b : Byte) : Effect s (.wrb .txbuf a b) (noReply s)
  | wrbRxbuf (a b : Byte) :
      Effect s (.wrb .rxbuf a b) (noReply (invalidateFrame { s with rxbuf := s.rxbuf.write a.toNat b }))
  | command (i : Instr) (c : Command) (t : State)
      (hi : (i, c) ∈ [(Instr.crcClr, Command.crcClr), (.crcUpd, .crcUpd), (.crcBuf, .crcBuf), (.encode, .encode),
        (.decode, .decode), (.validate, .validate)])
      (h : CommandEffect s (some c) t) : Effect s i t
  | reserved (v : Byte) : Effect s (.reservedCommand v) (raise .illegalCommand s)
  | reset : Effect s .reset (resetBlock fcb s)
  | load (i : Instr) (bytes : List Byte) (hi : Sys2Proof.encode i = .frame bytes) (hl : bytes.length ≤ 255) :
      Effect s i (noReply (invalidateFrame
        { s with rxbuf := s.rxbuf.writeBytes 0 bytes, rxLen := BitVec.ofNat 8 bytes.length }))

/-- What an instruction that answers a next state has done. -/
theorem exec_effect {i : Instr} {s t : State} (h : exec i s = .next t) : Effect s i t := by
  have hload : ∀ bytes, Sys2Proof.encode i = .frame bytes → loadBuffer bytes s = .next t → Effect s i t := by
    intro bytes hi hb
    rcases loadBuffer_cases bytes s with ⟨hl, e⟩ | ⟨-, e⟩ <;> rw [e] at hb <;> cases hb
    exact .load i bytes hi hl
  cases i with
  | rd r => cases h; exact .rd r
  | wr r d =>
    by_cases hr : r = .cmd
    · subst hr; exact .wrCmd d t (runCommand_effect h)
    · have h : regWrite fcb r d s = .next t := h
      rcases regWrite_cases fcb hr d s with ⟨rfl, e⟩ | ⟨rfl, e⟩ | ⟨rfl, e⟩ | ⟨rfl, e⟩ | ⟨rfl, e⟩ | ⟨rfl, e⟩ | ⟨hm, e⟩ <;>
        rw [e] at h <;> cases h
      · exact .wrDin d
      · exact .wrSyncVal d
      · exact .wrAddrVal d
      · exact .wrOpcode d
      · exact .wrPlen d
      · exact .wrRxLen d
      · exact .wrIgnored r d hm
  | rdb sp a =>
    cases hb : memRead sp a.toNat s with
    | none => simp [exec, execRdb, hb] at h
    | some b =>
      simp only [exec, execRdb, hb] at h
      cases h; exact .rdb sp a b hb
  | wrb sp a b =>
    cases h
    cases sp
    · exact .wrbPbuf a b
    · exact .wrbTxbuf a b
    · exact .wrbRxbuf a b
  | crcClr => exact .command _ .crcClr t (by simp) (runCommand_effect (v := 1#8) h)
  | crcUpd => exact .command _ .crcUpd t (by simp) (runCommand_effect (v := 2#8) h)
  | crcBuf => exact .command _ .crcBuf t (by simp) (runCommand_effect (v := 3#8) h)
  | encode => exact .command _ .encode t (by simp) (runCommand_effect (v := 4#8) h)
  | decode => exact .command _ .decode t (by simp) (runCommand_effect (v := 5#8) h)
  | validate => exact .command _ .validate t (by simp) (runCommand_effect (v := 6#8) h)
  | reservedCommand v => cases h; exact .reserved v
  | reset => cases h; exact .reset
  | frame a b data => exact hload _ rfl h
  | frameAck a b => exact hload _ rfl h
  | frameNak a b => exact hload _ rfl h

end Sys2Proof.Machine
end

