-- ==== Sys2Proof/Laws/Parameters.lean ====
section
/-! SUPPORT. The block is the machine with parameters at the values of 00_scope.md R5. -/

namespace Sys2Proof.Machine

theorem execWith_fcb (i : Instr) (s : State) : execWith fcb i s = exec i s := by cases i <;> rfl

theorem stepWith_fcb (s : State) : stepWith fcb s = step s := by
  have h : execWith fcb = exec := by funext i s; exact execWith_fcb i s
  show stepBy decode (execWith fcb) s = stepBy decode exec s
  rw [h]

end Sys2Proof.Machine
end

