-- ==== Sys2Proof/Laws/PerInstr.lean ====
section
/-! SUPPORT. One family of facts made per instruction, about its encoding only. -/

namespace Sys2Proof.Laws

open Sys2Proof Sys2Proof.Machine

/-- The zero field `w[27:24]` of an instruction's word is 0 (30_encoding.md R66); RESET and the link frames have no word. -/
def ZeroField.Statement (i : Instr) : Prop := ∀ w, encode i = .word w → wordZero w = 0#4

theorem ZeroField.rd (r : Reg) : ZeroField.Statement (.rd r) := fun w h => by
  cases h; exact wordZero_mkWord ..

theorem ZeroField.wr (r : Reg) (d : Half) : ZeroField.Statement (.wr r d) := fun w h => by
  cases h; exact wordZero_mkWord ..

theorem ZeroField.rdb (sp : Space) (i : Byte) : ZeroField.Statement (.rdb sp i) := fun w h => by
  cases h; exact wordZero_mkWord ..

theorem ZeroField.wrb (sp : Space) (i b : Byte) : ZeroField.Statement (.wrb sp i b) := fun w h => by
  cases h; exact wordZero_mkWord ..

theorem ZeroField.crcClr : ZeroField.Statement .crcClr := fun w h => by
  cases h; exact wordZero_mkWord ..

theorem ZeroField.crcUpd : ZeroField.Statement .crcUpd := fun w h => by
  cases h; exact wordZero_mkWord ..

theorem ZeroField.crcBuf : ZeroField.Statement .crcBuf := fun w h => by
  cases h; exact wordZero_mkWord ..

theorem ZeroField.encode : ZeroField.Statement .encode := fun w h => by
  cases h; exact wordZero_mkWord ..

theorem ZeroField.decode : ZeroField.Statement .decode := fun w h => by
  cases h; exact wordZero_mkWord ..

theorem ZeroField.validate : ZeroField.Statement .validate := fun w h => by
  cases h; exact wordZero_mkWord ..

theorem ZeroField.reservedCommand (v : Byte) : ZeroField.Statement (.reservedCommand v) := fun w h => by
  cases h; exact wordZero_mkWord ..

theorem ZeroField.reset : ZeroField.Statement .reset := fun w h => by cases h

theorem ZeroField.frame (a b : Byte) (data : List Byte) : ZeroField.Statement (.frame a b data) := fun w h => by cases h

theorem ZeroField.frameAck (a b : Byte) : ZeroField.Statement (.frameAck a b) := fun w h => by cases h

theorem ZeroField.frameNak (a b : Byte) : ZeroField.Statement (.frameNak a b) := fun w h => by cases h

end Sys2Proof.Laws
end

