-- ==== Sys2Proof/Tests/Slice0.lean ====
section
/-! SUPPORT. The model's own tests, each on the spec's own numbers (30_encoding.md, 95_test_vectors.md), and one witness per statement that has hypotheses. -/

namespace Sys2Proof.Tests

open Sys2Proof Sys2Proof.Machine

/-- From reset, `LDRX bytes` (30_encoding.md R74). -/
def withRx (bytes : List Byte) : State :=
  { State.reset with rxbuf := Memory.writeBytes [] 0 bytes, rxLen := BitVec.ofNat 8 bytes.length }

/-- From reset, `WR OPCODE` and `LDP params` (30_encoding.md R74). -/
def withCommand (opcode : Byte) (params : List Byte) : State :=
  { State.reset with
    opcode := opcode, plen := BitVec.ofNat 8 params.length, pbuf := Memory.writeBytes [] 0 params }

/-- The ACK frame of 30_encoding.md R64. -/
def ackFrame : List Byte := [0x02#8, 0x03#8, 0x06#8, 0x00#8, 0xC2#8, 0x82#8]
/-- The NAK frame of 30_encoding.md R64. -/
def nakFrame : List Byte := [0x02#8, 0x03#8, 0x06#8, 0xFF#8, 0xBA#8, 0x8D#8]
/-- The frame of vector V-ENC-8. -/
def dataFrame : List Byte := [0x02#8, 0x03#8, 0x07#8, 0x10#8, 0x13#8, 0xCB#8, 0x08#8]
/-- The longest payload, 250 bytes; its class is DATA. -/
def longData : List Byte := List.replicate 250 0x5A#8

/-- The longest parameter sequence, 249 bytes. -/
def longParams : List Byte := List.replicate 249 0xFF#8

/-- The state an outcome leaves, where it leaves one. -/
def left : Result → State
  | .next t => t
  | .fault _ => State.reset
  | .refused _ => State.reset

/-- `STATUS` after an instruction, where it answers a next state. -/
def status (o : Result) : Option Byte :=
  match o with
  | .next t => some (statusByte t)
  | .fault _ => none
  | .refused _ => none

/-- What an instruction returns, where it answers a next state. -/
def reply (o : Result) : Option Reply :=
  match o with
  | .next t => some t.reply
  | .fault _ => none
  | .refused _ => none

/-- The unwritten byte a fault names. -/
def faultOf (o : Result) : Option Fault :=
  match o with
  | .next _ => none
  | .fault f => some f
  | .refused _ => none

/-- The refusal of an outcome. -/
def refusalOf (o : Result) : Option Refusal :=
  match o with
  | .next _ => none
  | .fault _ => none
  | .refused r => some r

/-- Hand the block these inputs one after the other. -/
def feed : List Input → State → State
  | [], s => s
  | inp :: rest, s =>
    match step { s with inputs := [inp] } with
    | .next t => feed rest t
    | .fault _ => s
    | .refused _ => s

theorem feed_reachable {s : State} (h : Reachable s) (inps : List Input) : Reachable (feed inps s) := by
  induction inps generalizing s with
  | nil => exact h
  | cons inp rest ih =>
    unfold feed
    split
    · exact ih (Reachable.step _ _ (Reachable.issue s [inp] h) ‹_›)
    · exact h
    · exact h

/-! ## WellFormed refuses an ill-formed term of each kind -/

theorem test_illformed_wr_cmd : (Instr.wr .cmd 0x0001#16).wellFormed = false := by decide
theorem test_illformed_wr_high_byte : (Instr.wr .din 0x0100#16).wellFormed = false := by decide
theorem test_wellformed_wr_wide : (Instr.wr .crc 0xFFFF#16).wellFormed = true := by decide
theorem test_illformed_reserved : (Instr.reservedCommand 0x06#8).wellFormed = false := by decide
theorem test_illformed_frame_empty : (Instr.frame 0x02#8 0x03#8 []).wellFormed = false := by decide
theorem test_illformed_frame_long :
    (Instr.frame 0x02#8 0x03#8 (List.replicate 251 0x5A#8)).wellFormed = false := by decide +kernel
theorem test_wellformed_frame_longest : (Instr.frame 0x02#8 0x03#8 longData).wellFormed = true := by decide +kernel
theorem test_illformed_frame_ack : (Instr.frame 0x02#8 0x03#8 [0x00#8]).wellFormed = false := by decide
theorem test_illformed_frame_nak : (Instr.frame 0x02#8 0x03#8 [0xFF#8]).wellFormed = false := by decide

/-! ## Every constructor decodes from bits written out from 30_encoding.md R60 to R70 -/

theorem test_decode_rd : Sys2Proof.decode (.word 0b00000000000000010000000000000000#32) = .ok (.rd .status) := by decide
theorem test_decode_wr : Sys2Proof.decode (.word 0b01000000000010010000000000000110#32) = .ok (.wr .rxLen 6#16) := by decide
theorem test_decode_rdb :
    Sys2Proof.decode (.word 0b10010000000001010000000000000000#32) = .ok (.rdb .txbuf 5#8) := by decide
theorem test_decode_wrb :
    Sys2Proof.decode (.word 0b11100000000000110000000011111111#32) = .ok (.wrb .rxbuf 3#8 0xFF#8) := by decide
theorem test_decode_crcClr : Sys2Proof.decode (.word 0b01000000000000000000000000000001#32) = .ok .crcClr := by decide
theorem test_decode_crcUpd : Sys2Proof.decode (.word 0b01000000000000000000000000000010#32) = .ok .crcUpd := by decide
theorem test_decode_crcBuf : Sys2Proof.decode (.word 0b01000000000000000000000000000011#32) = .ok .crcBuf := by decide
theorem test_decode_encode : Sys2Proof.decode (.word 0b01000000000000000000000000000100#32) = .ok .encode := by decide
theorem test_decode_decode : Sys2Proof.decode (.word 0b01000000000000000000000000000101#32) = .ok .decode := by decide
theorem test_decode_validate : Sys2Proof.decode (.word 0b01000000000000000000000000000110#32) = .ok .validate := by decide
theorem test_decode_reserved :
    Sys2Proof.decode (.word 0b01000000000000000000000000000111#32) = .ok (.reservedCommand 7#8) := by decide
theorem test_decode_reset : Sys2Proof.decode .reset = .ok .reset := by decide
theorem test_decode_frame :
    Sys2Proof.decode (.frame dataFrame) = .ok (.frame 0x02#8 0x03#8 [0x10#8, 0x13#8]) := by decide +kernel
theorem test_decode_frameAck : Sys2Proof.decode (.frame ackFrame) = .ok (.frameAck 0x02#8 0x03#8) := by decide +kernel
theorem test_decode_frameNak : Sys2Proof.decode (.frame nakFrame) = .ok (.frameNak 0x02#8 0x03#8) := by decide +kernel
/-- The table's first word of a `WR` row with `A` = 0 is a command row's word: those rows are matched first. -/
theorem test_table_word_is_command : decodeTableWord 32 0x40000000 = some (.reservedCommand 0#8) := by decide
theorem test_table_reset : decodeTableWord 0 0 = some .reset := by decide
theorem test_table_frame : decodeTableWord 48 0x82C200060302 = some (.frameAck 0x02#8 0x03#8) := by decide +kernel

/-- The malformed words of V-HOST-6, one for each clause of 30_encoding.md R68. -/
theorem test_malformed_words :
    ([0x01000000#32, 0x10010000#32, 0xB0000000#32, 0x00010001#32, 0xC0000100#32, 0x40020100#32, 0x000F0000#32].map
      fun w => Sys2Proof.decode (.word w)) =
      [.error .zeroField, .error .registerSpace, .error .reservedSpace, .error .readData, .error .byteData,
        .error .registerData, .error .reservedRegister] := by decide

/-- Link bytes that are not a well-formed frame are refused with the check they fail (V-DEC-18, V-VAL-9). -/
theorem test_malformed_frames :
    Sys2Proof.decode (.frame [0x02#8, 0x03#8, 0x07#8, 0x00#8, 0x1A#8, 0x9B#8]) = .error (.notAFrame .badLength) ∧
    Sys2Proof.decode (.frame [0x02#8, 0x03#8, 0x06#8, 0xFF#8, 0xBA#8]) = .error (.notAFrame .tooShort) := by
  decide +kernel

/-! ## One step of each instruction -/

/-- V-HOST-1. -/
theorem test_rd : reply (exec (.rd .syncVal) State.reset) = some (.reg 0x0002#16) := by decide
theorem test_rd_cmd : reply (exec (.rd .cmd) State.reset) = some (.reg 0x0000#16) := by decide
/-- V-HOST-4, and V-DEC-23: a write of the value `RXLEN` holds withdraws the decode result. -/
theorem test_wr : (left (exec (.wr .plen 0x00FA#16) State.reset)).plen = 0xFA#8 := by decide
theorem test_wr_rxlen : status (exec (.wr .rxLen 6#16) (left (exec .decode (withRx ackFrame)))) = some 0x00#8 := by
  decide +kernel
/-- V-HOST-5. -/
theorem test_rdb : faultOf (exec (.rdb .txbuf 0#8) State.reset) = some (.unwrittenByte .txbuf 0) := by decide
theorem test_rdb_written :
    reply (exec (.rdb .pbuf 255#8) (left (exec (.wrb .pbuf 255#8 0x5A#8) State.reset))) = some (.byte 0x5A#8) := by
  decide +kernel
theorem test_wrb : (left (exec (.wrb .rxbuf 0#8 0xA5#8) State.reset)).rxbuf = [(0, 0xA5#8)] := by decide
theorem test_wrb_txbuf : (left (exec (.wrb .txbuf 0#8 0xA5#8) State.reset)).txbuf = [] := by decide
theorem test_crcClr : (left (exec .crcClr { State.reset with crc := 0x82C2#16 })).crc = 0x0000#16 := by decide
/-- V-STEP-11 and V-STEP-12. -/
theorem test_crcUpd : (left (exec .crcUpd { State.reset with crc := 0x2312#16, din := 0x03#8 })).crc = 0x012B#16 := by decide
theorem test_crcUpd_trailer : (left (exec .crcUpd { State.reset with crc := 0x82C2#16, din := 0xC2#8 })).crc = 0x0082#16 := by
  decide
/-- V-CRC-3 and V-CRC-1. -/
theorem test_crcBuf :
    (left (exec .crcBuf (withRx [0x31#8, 0x32#8, 0x33#8, 0x34#8, 0x35#8, 0x36#8, 0x37#8, 0x38#8, 0x39#8]))).crc =
      0x2189#16 := by decide +kernel
theorem test_crcBuf_empty : (left (exec .crcBuf { State.reset with crc := 0x1234#16 })).crc = 0x0000#16 := by decide
/-- V-ENC-8 and V-ENC-18. -/
theorem test_encode : (txBytes (left (exec .encode (withCommand 0x10#8 [0x13#8])))).toOption = some dataFrame := by
  decide +kernel
theorem test_encode_tooLong : status (exec .encode { State.reset with plen := 250#8, txValid := true }) = some 0x05#8 := by
  decide
/-- V-DEC-17: three checks passed by a buffer that is not one frame; V-DEC-10: the length byte damaged. -/
theorem test_decode : status (exec .decode (withRx [0x00#8, 0x02#8, 0x07#8, 0x06#8, 0x00#8, 0xA3#8, 0xE1#8])) = some 0x20#8 := by
  decide +kernel
theorem test_decode_damaged :
    status (exec .decode (withRx [0x02#8, 0x03#8, 0x07#8, 0x00#8, 0xC2#8, 0x82#8])) = some 0x02#8 := by decide +kernel
/-- V-VAL-2 and V-VAL-8. -/
theorem test_validate_nak : status (exec .validate (withRx nakFrame)) = some 0xA4#8 := by decide +kernel
theorem test_validate_badLength :
    status (exec .validate (withRx [0x02#8, 0x03#8, 0x07#8, 0xFF#8, 0x62#8, 0x94#8])) = some 0x03#8 := by decide +kernel
/-- V-HOST-3. -/
theorem test_reservedCommand :
    status (exec (.reservedCommand 0xFF#8) (left (exec .decode (withRx ackFrame)))) = some 0x26#8 := by decide +kernel
theorem test_reset : exec .reset (withRx ackFrame) = .next State.reset := by rfl
theorem test_frame : (left (exec (.frame 0x02#8 0x03#8 [0x10#8, 0x13#8]) State.reset)).rxbuf =
    Memory.writeBytes [] 0 dataFrame := by decide +kernel
theorem test_frameAck : (left (exec (.frameAck 0x02#8 0x03#8) State.reset)).rxLen = 6#8 := by decide +kernel
theorem test_frameNak : (rxBytes (left (exec (.frameNak 0x02#8 0x03#8) State.reset))).toOption = some nakFrame := by
  decide +kernel
theorem test_frame_unpresentable :
    refusalOf (exec (.frame 0x02#8 0x03#8 (List.replicate 251 0x5A#8)) State.reset) = some .bufferTooLong := by
  decide +kernel
theorem test_step_refuses :
    refusalOf (step { State.reset with inputs := [.word 0x01000000#32] }) = some (.malformed .zeroField) := by decide
theorem test_step_first_instruction : status (step (State.reset.withFetchWord 32 0x40000007)) = some 0x06#8 := by decide
theorem test_core : core.reset = State.reset := rfl

/-- The trailer's byte order as an argument (20_memory.md R46). -/
theorem test_trailer_high_first :
    trailerBytes { fcb with trailerLowFirst := false } 0x82C2#16 = [0x82#8, 0xC2#8] := by decide

/-- The minimum frame as an argument (00_scope.md R5): at 5 the frame with no payload decodes, at 6 it is too short. -/
theorem test_minFrame_five :
    Sys2Proof.decodeWith { fcb with minFrame := 5 } (Sys2Proof.encodeWith fcb (.frame 0x02#8 0x03#8 [])) =
      .ok (.frame 0x02#8 0x03#8 []) ∧
    Sys2Proof.decode (Sys2Proof.encode (.frame 0x02#8 0x03#8 [])) = .error (.notAFrame .tooShort) := by decide +kernel
/-- The reset values as arguments (00_scope.md R5). -/
theorem test_reset_with :
    (left (execWith { fcb with syncReset := 0xAA#8, crcInit := 0xFFFF#16 } .reset State.reset)).crc = 0xFFFF#16 := by decide

/-- 30_encoding.md R73. -/
theorem test_script_line : scriptLine (.wrb .rxbuf 3#8 0xFF#8) = some "WRB RXBUF, 3, 255" := by decide +kernel
theorem test_script_names : ([Reg.syncVal, .fCrc, .payLen].map regName) = ["SYNC_VAL", "F_CRC", "PAY_LEN"] := by decide
theorem test_expand_ldp : expand (.ldp [0x13#8]) = [.wrb .pbuf 0#8 0x13#8, .wr .plen 1#16] := by decide

/-! ## A witness for the hypotheses of each statement, at boundary values, one for each clause -/

theorem witness_DecodeOfEncodeIsIdentity :
    [Instr.wr .crc 0xFFFF#16, .rdb .rxbuf 255#8, .reservedCommand 0xFF#8, .frame 0#8 0#8 [0x01#8],
      .frame 0#8 0#8 longData].all Instr.wellFormed = true := by decide +kernel

theorem witness_EncodeOfDecodeIsIdentity :
    Sys2Proof.decode (.word 0x400DFFFF#32) = .ok (.wr .fCrc 0xFFFF#16) ∧
    Sys2Proof.decode (.frame nakFrame) = .ok (.frameNak 0x02#8 0x03#8) := by decide +kernel

theorem witness_MalformedWordsAreExactlyRefused :
    ({ State.reset with inputs := [.word 0x000F0000#32] } : State).inputs = .word 0x000F0000#32 :: [] ∧
    refusalOf (step { State.reset with inputs := [.word 0x000F0000#32] }) = some (.malformed .reservedRegister) ∧
    refusalOf (step { State.reset with inputs := [.word 0x000E0000#32] }) = none := by decide

theorem witness_StepRunsTheDecodedInstruction :
    ({ State.reset with inputs := [.word 0x40000001#32, .reset] } : State).inputs = .word 0x40000001#32 :: [.reset] ∧
    Sys2Proof.decode (.word 0x40000001#32) = .ok .crcClr ∧ decodeTableWord 32 0x40000001 = some .crcClr := by decide

theorem witness_StepWithoutInputChangesNothing : State.reset.inputs = [] := rfl

theorem witness_CompletesUnlessItReadsAnUnwrittenByte :
    (Instr.decode.wellFormed = true ∧ readsWritten .decode (withRx ackFrame)) ∧
    (Instr.encode.wellFormed = true ∧ readsWritten .encode { State.reset with plen := 250#8 }) ∧
    exec .encode { State.reset with plen := 1#8 } = .fault (.unwrittenByte .pbuf 0) := by
  refine ⟨⟨rfl, fun _ => ?_⟩, ⟨rfl, fun h => absurd h (by decide)⟩, rfl⟩
  show ∀ i, i < 6 → _
  decide +kernel

theorem witness_RdReturnsTheRegister : 0x0F ≤ (0x0F#8 : Byte).toNat ∧ 0x0F ≤ (0xFF#8 : Byte).toNat := by decide

theorem witness_WrWritesTheRegister :
    Reg.payLen ∈ [Reg.status, .crc, .txLen, .fSync, .fAddr, .fLen, .fCrc, .payLen] ∧
    (Reg.din ≠ .cmd ∧ (Reg.din = .crc ∨ Reg.din = .fCrc ∨ (0x00FF#16 : Half).toNat < 256)) ∧
    (Reg.fCrc ≠ .cmd ∧ (Reg.fCrc = .crc ∨ Reg.fCrc = .fCrc ∨ (0xFFFF#16 : Half).toNat < 256)) := by decide

theorem witness_WrCmdDispatchesTheCommand :
    ([0x0001#16, 0x0002#16, 0x0003#16, 0x0004#16, 0x0005#16, 0x0006#16].map fun d : Half => d.extractLsb' 0 8) =
      [0x01#8, 0x02#8, 0x03#8, 0x04#8, 0x05#8, 0x06#8] ∧
    (0xFF00#16 : Half).extractLsb' 0 8 = 0x00#8 ∧ 0x07 ≤ ((0x0007#16 : Half).extractLsb' 0 8).toNat ∧
    0x07 ≤ ((0x00FF#16 : Half).extractLsb' 0 8).toNat := by decide

theorem witness_IllegalCommandSetsOnlyErr :
    ((0x00#8 : Byte) = 0x00#8 ∨ 0x07 ≤ (0x00#8 : Byte).toNat) ∧ ((0x07#8 : Byte) = 0x00#8 ∨ 0x07 ≤ (0x07#8 : Byte).toNat) ∧
    ((0xFF#8 : Byte) = 0x00#8 ∨ 0x07 ≤ (0xFF#8 : Byte).toNat) := by decide

theorem witness_RdbReturnsTheByte :
    ({ State.reset with pbuf := [(255, 0x5A#8)] } : State).pbuf.read (255#8 : Byte).toNat = some 0x5A#8 ∧
    (withRx ackFrame).rxbuf.read (0#8 : Byte).toNat = some 0x02#8 ∧
    (left (exec .encode (withCommand 0x00#8 []))).txbuf.read (4#8 : Byte).toNat = some 0xC2#8 := by decide +kernel

theorem witness_UnwrittenBytesFaultWhenRead :
    exec .reset State.reset = .next State.reset ∧
    (∃ t, exec (.wrb .pbuf 255#8 0x00#8) State.reset = .next t) ∧
    (∃ t, exec (.wrb .rxbuf 255#8 0x00#8) State.reset = .next t) ∧
    ((withCommand 0x00#8 []).plen.toNat ≤ 249 ∧ ∃ t, exec .encode (withCommand 0x00#8 []) = .next t) ∧
    memRead .txbuf (255#8 : Byte).toNat State.reset = none ∧
    (({ State.reset with plen := 249#8 } : State).plen.toNat ≤ 249 ∧
      ∃ i, i < ({ State.reset with plen := 249#8 } : State).plen.toNat ∧ State.reset.pbuf.read i = none) ∧
    (6 ≤ ({ State.reset with rxLen := 6#8 } : State).rxLen.toNat ∧
      ∃ i, i < ({ State.reset with rxLen := 6#8 } : State).rxLen.toNat ∧ State.reset.rxbuf.read i = none) :=
  ⟨rfl, ⟨_, rfl⟩, ⟨_, rfl⟩, ⟨by decide, _, rfl⟩, rfl, ⟨by decide, 248, by decide, rfl⟩, by decide, 5, by decide, rfl⟩

theorem witness_ReadsChangeNothingAndWritesButCmdAreIdempotent :
    (∃ t, exec (.rd .status) State.reset = .next t) ∧
    (∃ t, exec (.rdb .rxbuf 0#8) (withRx ackFrame) = .next t) ∧
    (Reg.rxLen ≠ .cmd ∧ ∃ t, exec (.wr .rxLen 6#16) (withRx ackFrame) = .next t) ∧
    (∃ t, exec (.wrb .rxbuf 255#8 0xFF#8) (withRx ackFrame) = .next t) :=
  ⟨⟨_, rfl⟩, ⟨_, rfl⟩, ⟨by decide, _, rfl⟩, _, rfl⟩

theorem witness_ErrChangesOnlyByCommandOrReset :
    exec (.reservedCommand 0#8) State.reset = .next { State.reset with err := 6#4 } ∧
    ({ State.reset with err := 6#4 } : State).err ≠ State.reset.err := ⟨rfl, by decide⟩

theorem witness_TransmitSideChangesOnlyByEncodeOrReset :
    (∃ t, exec .encode (withCommand 0x00#8 []) = .next t) ∧
    (∃ t, exec .encode { State.reset with plen := 250#8 } = .next t) ∧
    (∃ t, exec (.wr .cmd 0x0001#16) State.reset = .next t) ∧
    (0x0001#16 : Half).extractLsb' 0 8 ≠ 0x04#8 := ⟨⟨_, rfl⟩, ⟨_, rfl⟩, ⟨_, rfl⟩, by decide⟩

theorem witness_DecodeResultStaysUntilWithdrawn :
    status (exec .crcBuf (left (exec .decode (withRx ackFrame)))) = some 0x20#8 := by decide +kernel

theorem witness_InvalidateFrameClearsSevenLocations :
    (∃ t, exec (.wr .rxLen 6#16) (withRx ackFrame) = .next t) ∧
    (∃ t, exec (.wrb .rxbuf 255#8 0x00#8) (withRx ackFrame) = .next t) ∧
    ∃ t, exec .reset (withRx ackFrame) = .next t := ⟨⟨_, rfl⟩, ⟨_, rfl⟩, _, rfl⟩

theorem witness_HostOwnedStateChangesOnlyByItsOwnWrite :
    exec (.wr .plen 1#16) State.reset = .next { State.reset with plen := 1#8 } ∧ Instr.wr .plen 1#16 ≠ .reset :=
  ⟨rfl, by decide⟩

theorem witness_CrcChangesOnlyByAComputingCommand :
    (left (exec .crcBuf (withRx [0x01#8]))).crc ≠ (withRx [0x01#8]).crc ∧
    (left (exec .decode (withRx ackFrame))).crc ≠ (withRx ackFrame).crc ∧
    (left (exec (.wr .cmd 4#16) (withCommand 0x00#8 []))).crc ≠ (withCommand 0x00#8 []).crc := by decide +kernel

theorem witness_CrcIsLinear : ([0x02#8, 0x03#8] : List Byte).length = ([0xFF#8, 0x00#8] : List Byte).length := rfl

theorem witness_CrcDetectsAnyChangedByte :
    (0x01#8 : Byte) ≠ 0#8 ∧ (decodeFrame fcb ackFrame).isOk = true ∧
    (0 < ackFrame.length ∧ (0x03#8 : Byte) ≠ ackFrame.getD 0 0#8) ∧
    (5 < ackFrame.length ∧ (0x83#8 : Byte) ≠ ackFrame.getD 5 0#8) := by decide +kernel

theorem witness_CrcByteByByteEqualsCrcOfBuffer :
    (withRx ackFrame).rxLen.toNat = ackFrame.length ∧ Holds (withRx ackFrame).rxbuf ackFrame :=
  ⟨rfl, Memory.holds_writeBytes _ _⟩

theorem witness_CrcBufChecksumsTheReceiveBuffer :
    (ackFrame.length = (withRx ackFrame).rxLen.toNat ∧ Holds (withRx ackFrame).rxbuf ackFrame) ∧
    State.reset.rxLen = 0#8 ∧ (decodeFrame fcb ackFrame).isOk = true :=
  ⟨⟨rfl, Memory.holds_writeBytes _ _⟩, rfl, by decide +kernel⟩

theorem witness_EncodeFunctionAssemblesTheFrame :
    ([] : List Byte).length ≤ 249 ∧ (List.replicate 249 (0xFF#8 : Byte)).length ≤ 249 ∧
    249 < (List.replicate 250 (0xFF#8 : Byte)).length := by decide +kernel

/-- `PLEN` = 250, 0 and 249 (V-ENC-18, V-ENC-1, V-ENC-17). -/
theorem witness_EncodeBuildsTheRequestFrame :
    249 < ({ State.reset with plen := 250#8 } : State).plen.toNat ∧
    (([] : List Byte).length = (withCommand 0x00#8 []).plen.toNat ∧ (withCommand 0x00#8 []).plen.toNat ≤ 249 ∧
      Holds (withCommand 0x00#8 []).pbuf []) ∧
    (longParams.length = (withCommand 0x5A#8 longParams).plen.toNat ∧ (withCommand 0x5A#8 longParams).plen.toNat ≤ 249 ∧
      Holds (Memory.writeBytes [] 0 longParams) longParams) :=
  ⟨by decide, ⟨rfl, by decide, Memory.holds_writeBytes _ _⟩, by decide +kernel, by decide +kernel,
    Memory.holds_writeBytes _ _⟩

theorem witness_SecondEncodeBuildsTheSameFrame :
    BuffersCanonical (withCommand 0x10#8 [0x13#8]) ∧ (withCommand 0x10#8 [0x13#8]).plen.toNat ≤ 249 ∧
    ∃ t, exec .encode (withCommand 0x10#8 [0x13#8]) = .next t :=
  ⟨⟨by decide, by decide, by decide⟩, by decide, _, rfl⟩

theorem witness_EncodedFramesAreWellFormed :
    (withCommand 0x10#8 [0x13#8]).plen.toNat ≤ 249 ∧
    exec .encode (withCommand 0x10#8 [0x13#8]) = .next (left (exec .encode (withCommand 0x10#8 [0x13#8]))) ∧
    (withRx dataFrame).rxLen = (left (exec .encode (withCommand 0x10#8 [0x13#8]))).txLen ∧
    Holds (withRx dataFrame).rxbuf dataFrame ∧
    (txBytes (left (exec .encode (withCommand 0x10#8 [0x13#8])))).toOption = some dataFrame :=
  ⟨by decide, rfl, by decide +kernel, Memory.holds_writeBytes _ _, by decide +kernel⟩

/-- One buffer for each of the four outcomes of `decode`: V-VAL-9, V-DEC-13, V-DEC-18, V-DEC-1. -/
theorem witness_DecodeFunctionChecksInOrder :
    decodeFrame fcb (nakFrame.take 5) = .error .tooShort ∧
    decodeFrame fcb (ackFrame.set 5 0x83#8) = .error .badChecksum ∧
    decodeFrame fcb [0x02#8, 0x03#8, 0x07#8, 0x00#8, 0x1A#8, 0x9B#8] = .error .badLength ∧
    (decodeFrame fcb ackFrame).isOk = true := by decide +kernel

/-- The buffers of the same four vectors, in `RXBUF`. -/
theorem witness_DecodeReportsTheFrameOrTheError :
    (withRx (ackFrame.take 5)).rxLen.toNat < 6 ∧ 6 ≤ (withRx ackFrame).rxLen.toNat ∧
    (ackFrame.length = (withRx ackFrame).rxLen.toNat ∧ Holds (withRx ackFrame).rxbuf ackFrame) ∧
    crc16 fcb (ackFrame.take 4) = ackFrame.getD 5 0#8 ++ ackFrame.getD 4 0#8 ∧ (ackFrame.getD 2 0#8).toNat = 6 ∧
    Holds (withRx (ackFrame.set 5 0x83#8)).rxbuf (ackFrame.set 5 0x83#8) ∧
    crc16 fcb ((ackFrame.set 5 0x83#8).take 4) ≠ (0x83#8 ++ 0xC2#8 : Half) ∧
    Holds (withRx [0x02#8, 0x03#8, 0x07#8, 0x00#8, 0x1A#8, 0x9B#8]).rxbuf [0x02#8, 0x03#8, 0x07#8, 0x00#8, 0x1A#8, 0x9B#8] ∧
    crc16 fcb [0x02#8, 0x03#8, 0x07#8, 0x00#8] = (0x9B#8 ++ 0x1A#8 : Half) :=
  ⟨by decide, by decide, ⟨rfl, Memory.holds_writeBytes _ _⟩, by decide +kernel, by decide, Memory.holds_writeBytes _ _,
    by decide +kernel, Memory.holds_writeBytes _ _, by decide +kernel⟩

/-- An ACK, a NAK and a data frame, a damaged one and a short one. -/
theorem witness_ValidateClassifiesTheDecodedFrame :
    (withRx (nakFrame.take 5)).rxLen.toNat < 6 ∧
    (6 ≤ (withRx ackFrame).rxLen.toNat ∧ ackFrame.length = (withRx ackFrame).rxLen.toNat ∧
      Holds (withRx ackFrame).rxbuf ackFrame) ∧
    (([ackFrame, nakFrame, dataFrame].map fun B => (decodeFrame fcb B).toOption.map Frame.data) =
      [some [0x00#8], some [0xFF#8], some [0x10#8, 0x13#8]]) ∧
    decodeFrame fcb (nakFrame.set 5 0x8C#8) = .error .badChecksum :=
  ⟨by decide, ⟨by decide, rfl, Memory.holds_writeBytes _ _⟩, by decide +kernel, by decide +kernel⟩

theorem witness_DecodeCommandsRefineTheFunctions :
    ackFrame.length = (withRx ackFrame).rxLen.toNat ∧ Holds (withRx ackFrame).rxbuf ackFrame :=
  ⟨rfl, Memory.holds_writeBytes _ _⟩

theorem witness_NakLeavesAValidFrame :
    status (exec .validate (withRx nakFrame)) = some 0xA4#8 ∧ status (exec .decode (withRx nakFrame)) = some 0x20#8 := by
  decide +kernel

theorem witness_ErrorsArePrecise :
    ([exec .encode { State.reset with plen := 250#8 }, exec .decode (withRx (ackFrame.set 5 0x83#8)),
      exec .validate (withRx nakFrame), exec (.reservedCommand 7#8) State.reset].map fun o => (left o).err) =
      [5#4, 2#4, 4#4, 6#4] := by decide +kernel

theorem witness_DecodeIgnoresSyncAndAddressRegisters :
    (Instr.validate = .decode ∨ Instr.validate = .validate) ∧ 1 ≤ longData.length ∧ longData.length ≤ 250 ∧
    (decodeFrame fcb ackFrame).isOk = true ∧ 1 < 2 ∧ (0x02#8 : Byte) ≠ ackFrame.getD 1 0#8 := by
  decide +kernel

/-- V-DEC-16 and V-DEC-17: a frame after one byte 0x00, rejected and accepted by the length check. -/
theorem witness_MisdelimitedBuffersMeetTheLengthCheck :
    (decodeFrame fcb ackFrame).isOk = true ∧ (decodeFrame fcb [0x02#8, 0x07#8, 0x06#8, 0x00#8, 0xA3#8, 0xE1#8]).isOk = true ∧
    ((List.replicate 1 0x00#8 ++ ackFrame).getD 2 0#8).toNat ≠ 7 ∧
    ((List.replicate 1 0x00#8 ++ [0x02#8, 0x07#8, 0x06#8, 0x00#8, 0xA3#8, 0xE1#8]).getD 2 0#8).toNat = 7 := by
  decide +kernel

theorem witness_EncodeLoopbackDecodeRoundTrip :
    ([0x13#8] : List Byte).length = (withCommand 0x10#8 [0x13#8]).plen.toNat ∧
    (withCommand 0x10#8 [0x13#8]).plen.toNat ≤ 249 ∧ Holds (withCommand 0x10#8 [0x13#8]).pbuf [0x13#8] ∧
    longParams.length ≤ 249 :=
  ⟨rfl, by decide, Memory.holds_writeBytes _ _, by decide +kernel⟩

theorem witness_AnySingleByteDamageGivesBadChecksum :
    encodeFrame fcb 0x02#8 0x03#8 0x00#8 [] = some ackFrame ∧ 2 < ackFrame.length ∧ (0x07#8 : Byte) ≠ ackFrame.getD 2 0#8 ∧
    (withRx (ackFrame.set 2 0x07#8)).rxLen.toNat = ackFrame.length ∧
    Holds (withRx (ackFrame.set 2 0x07#8)).rxbuf (ackFrame.set 2 0x07#8) :=
  ⟨by decide +kernel, by decide, by decide, by decide, Memory.holds_writeBytes _ _⟩

theorem witness_LinkFrameEqualsLdrxOfItsBytes :
    (Instr.frame 0x02#8 0x03#8 [0x10#8, 0x13#8]).wellFormed = true ∧
    Sys2Proof.encode (.frame 0x02#8 0x03#8 [0x10#8, 0x13#8]) = .frame dataFrame ∧
    Sys2Proof.encode (.frameAck 0x02#8 0x03#8) = .frame ackFrame ∧
    Sys2Proof.encode (.frameNak 0x02#8 0x03#8) = .frame nakFrame := by decide +kernel

/-- A legal state with a decoded and classified ACK frame and an encoded one, which a step leaves. -/
theorem witness_StepKeepsTheStateLegal :
    Legal (feed [.frame ackFrame, .word 0x40000004#32, .word 0x40000006#32] State.reset) ∧
    statusByte (feed [.frame ackFrame, .word 0x40000004#32, .word 0x40000006#32] State.reset) = 0x70#8 ∧
    status (step { feed [.frame ackFrame, .word 0x40000004#32, .word 0x40000006#32] State.reset with
      inputs := [.word 0x40000003#32] }) = some 0x70#8 := by
  refine ⟨⟨⟨?_, ?_, ?_⟩, ?_, ⟨fun _ => ⟨ackFrame, (txBytes_ok_iff _ _).2 ⟨?_, ?_⟩, ?_⟩, ?_⟩,
    ⟨fun _ => ⟨ackFrame, (rxBytes_ok_iff _ _).2 ⟨?_, ?_⟩, ?_⟩, ?_⟩⟩, ?_, ?_⟩
  · decide +kernel
  · decide +kernel
  · decide +kernel
  · show _ ≤ 6; decide +kernel
  · decide +kernel
  · unfold Holds; decide +kernel
  · decide +kernel
  · decide +kernel
  · decide +kernel
  · unfold Holds; decide +kernel
  · decide +kernel
  · decide +kernel
  · decide +kernel
  · decide +kernel

theorem witness_EncodedFrameStaysConsistent :
    (Reachable (feed [.word 0x40000004#32] State.reset) ∧ (feed [.word 0x40000004#32] State.reset).txValid = true) ∧
    Reachable State.reset ∧ State.reset.txValid = false :=
  ⟨⟨feed_reachable .reset _, by decide +kernel⟩, .reset, rfl⟩

/-- A reachable state with a valid frame of each class. -/
theorem witness_DecodedFrameStaysConsistent :
    (Reachable (feed [.frame ackFrame, .word 0x40000006#32] State.reset) ∧
      statusByte (feed [.frame ackFrame, .word 0x40000006#32] State.reset) = 0x60#8) ∧
    (Reachable (feed [.frame nakFrame, .word 0x40000006#32] State.reset) ∧
      statusByte (feed [.frame nakFrame, .word 0x40000006#32] State.reset) = 0xA4#8) ∧
    (Reachable (feed [.frame dataFrame, .word 0x40000006#32] State.reset) ∧
      statusByte (feed [.frame dataFrame, .word 0x40000006#32] State.reset) = 0xE0#8) ∧
    Reachable State.reset ∧ State.reset.fValid = false :=
  ⟨⟨feed_reachable .reset _, by decide +kernel⟩, ⟨feed_reachable .reset _, by decide +kernel⟩,
    ⟨feed_reachable .reset _, by decide +kernel⟩, .reset, rfl⟩

theorem witness_ReservedErrValuesAreNeverProduced :
    Reachable (feed [.word 0x400000FF#32] State.reset) ∧ (feed [.word 0x400000FF#32] State.reset).err = 6#4 :=
  ⟨feed_reachable .reset _, by decide +kernel⟩

/-- Other parameters than the block's: MIN_FRAME 5, another generator, initial value and trailer order. -/
def otherParameters : Config :=
  { crcPolyR := 0xA001#16, crcInit := 0xFFFF#16, trailerLowFirst := false, syncReset := 0xAA#8, addrReset := 0x55#8
    minFrame := 5 }

theorem witness_EveryParameterSetDecodesWhatItEncodes :
    (fcb.minFrameAdmitted = true ∧ (Instr.frame 0x02#8 0x03#8 longData).wellFormedWith fcb = true) ∧
    (otherParameters.minFrameAdmitted = true ∧ (Instr.frame 0x02#8 0x03#8 []).wellFormedWith otherParameters = true) := by
  decide +kernel

theorem witness_EveryParameterSetRoundTrips :
    (fcb.minFrameAdmitted = true ∧ otherParameters.minFrameAdmitted = true) ∧
    (longParams.length = (withCommand 0x5A#8 longParams).plen.toNat ∧ (withCommand 0x5A#8 longParams).plen.toNat ≤ 249 ∧
      Holds (Memory.writeBytes [] 0 longParams) longParams) ∧
    ∃ t f, execWith otherParameters .encode (withCommand 0x10#8 []) = .next t ∧
      encodeFrame otherParameters 0x02#8 0x03#8 0x10#8 [] = some f ∧ (withRx f).rxLen = t.txLen ∧ Holds (withRx f).rxbuf f :=
  ⟨by decide, ⟨by decide +kernel, by decide +kernel, Memory.holds_writeBytes _ _⟩, _, _, rfl, rfl, rfl,
    Memory.holds_writeBytes _ _⟩

end Sys2Proof.Tests
end

section
/-! PROOFS. The parameters of 00_scope.md R5 as arguments: the frame that `buildFrame` makes and its decoding, the word encodings read back, and the round trip of `ENCODE` and `DECODE`, each for every parameter set. -/

namespace Sys2Proof

open Sys2Proof.Machine

namespace Machine

/-! The limits of 00_scope.md R5. -/

theorem maxData_eq : maxData = 250 := rfl

theorem maxParams_eq : maxParams = 249 := rfl

theorem minFrame_le_six {p : Config} (hp : p.minFrameAdmitted = true) : p.minFrame ≤ 6 := by
  simp only [Config.minFrameAdmitted, Bool.or_eq_true, beq_iff_eq] at hp
  omega

/-! The bytes of a frame that `buildFrame` makes, for any parameters. -/

section BuildFrame

variable (p : Config) (x y : Byte) (data : List Byte)

@[simp] theorem buildFrame_getD_sync : (buildFrame p x y data).getD 0 0#8 = x := rfl

@[simp] theorem buildFrame_getD_address : (buildFrame p x y data).getD 1 0#8 = y := rfl

@[simp] theorem buildFrame_getD_length :
    (buildFrame p x y data).getD 2 0#8 = BitVec.ofNat 8 (3 + data.length + 2) := rfl

/-- The bytes before the trailer are the header and the payload. -/
theorem buildFrame_take : (buildFrame p x y data).take (data.length + 3) = frameBody x y data :=
  List.take_left' (frameBody_length x y data)

/-- The bytes between the header and the trailer are the payload. -/
theorem buildFrame_payload : ((buildFrame p x y data).drop 3).take data.length = data :=
  List.take_left' rfl

/-- The byte at index `3 + i` is the payload's byte `i`. -/
theorem buildFrame_getD_payload {i : Nat} (hi : i < data.length) :
    (buildFrame p x y data).getD (3 + i) 0#8 = data.getD i 0#8 := by
  rw [Nat.add_comm]
  exact List.getD_append data (trailerBytes p (crc16 p (frameBody x y data))) 0#8 i hi

/-- The last two bytes carry the checksum of the bytes before them, in the trailer order of `p`. -/
theorem buildFrame_trailer :
    trailerNumber p ((buildFrame p x y data).getD (data.length + 3) 0#8)
      ((buildFrame p x y data).getD (data.length + 4) 0#8) = crc16 p (frameBody x y data) := by
  have hb : (frameBody x y data).length = data.length + 3 := frameBody_length x y data
  unfold buildFrame
  rw [List.getD_append_right _ _ _ _ (by omega), List.getD_append_right _ _ _ _ (by omega), hb, Nat.sub_self,
    show data.length + 4 - (data.length + 3) = 1 by omega, trailerNumber_trailerBytes]

/-- A frame with a payload of at most `MAX_DATA` bytes, and of at least the minimum size, decodes to its own header and
payload (42_decode_validate.md R116). -/
theorem decodeFrame_buildFrame (hmin : p.minFrame ≤ data.length + 5) (hmax : data.length ≤ maxData) :
    decodeFrame p (buildFrame p x y data) = .ok
      { sync := x, address := y, length := BitVec.ofNat 8 (3 + data.length + 2), data := data,
        crc16 := crc16 p (frameBody x y data) } := by
  have hlt : 3 + data.length + 2 < 256 := by
    rw [maxData_eq] at hmax; omega
  rw [decodeFrame_ok_iff, buildFrame_length, show data.length + 5 - 2 = data.length + 3 by omega,
    show data.length + 5 - 1 = data.length + 4 by omega, show data.length + 5 - 3 - 2 = data.length by omega,
    buildFrame_take, buildFrame_trailer, buildFrame_payload]
  refine ⟨hmin, rfl, ?_, rfl⟩
  rw [buildFrame_getD_length, BitVec.toNat_ofNat, Nat.mod_eq_of_lt hlt]
  omega

end BuildFrame

end Machine

/-! The words the encoder writes, decoded (30_encoding.md R66 to R70). No parameter takes part in them. -/

theorem decodeWord_rd (r : Reg) : decodeWord (mkWord 0#2 0#2 (regNum r) 0#16) = .ok (.rd r) := by
  simp [decodeWord, decodeRd]

theorem decodeWord_wr {r : Reg} (hr : r ≠ .cmd) {d : Half} (hd : regWide r = true ∨ highByte d = 0#8) :
    decodeWord (mkWord 1#2 0#2 (regNum r) d) = .ok (.wr r d) := by
  have hfit : ¬ (regWide r = false ∧ highByte d ≠ 0#8) := by
    rintro ⟨hw, hh⟩
    rcases hd with h | h
    · simp [hw] at h
    · exact hh h
  simp only [decodeWord, decodeWr, wordZero_mkWord, wordKind_mkWord, wordSpace_mkWord, wordA_mkWord, wordD_mkWord,
    regOfNum_regNum, if_neg hfit, if_neg hr]
  simp

theorem decodeWord_command (v : Byte) :
    decodeWord (mkWord 1#2 0#2 (regNum .cmd) (v.setWidth 16)) = .ok (decodeCommand v) := by
  simp [decodeWord, decodeWr]

theorem decodeWord_rdb (sp : Space) (i : Byte) :
    decodeWord (mkWord 2#2 (spaceNum sp) i 0#16) = .ok (.rdb sp i) := by
  simp [decodeWord, decodeRdb]

theorem decodeWord_wrb (sp : Space) (i b : Byte) :
    decodeWord (mkWord 3#2 (spaceNum sp) i (b.setWidth 16)) = .ok (.wrb sp i b) := by
  simp [decodeWord, decodeWrb]

theorem decodeCommand_of_none {v : Byte} (hv : commandOfCode v = none) : decodeCommand v = .reservedCommand v := by
  simp [decodeCommand, hv]

/-- The row of spec/opcode_table.json of a link frame with this header and payload, by the payload's class
(30_encoding.md R64). -/
def linkRow (x y : Byte) (data : List Byte) : PayloadClass → Instr
  | .ack => .frameAck x y
  | .nak => .frameNak x y
  | .data => .frame x y data

/-- The bytes of a frame of an admitted size decode to the row that its payload's class has. -/
theorem decodeLink_buildFrame {p : Config} (x y : Byte) {data : List Byte} (hmin : p.minFrame ≤ data.length + 5)
    (hmax : data.length ≤ maxData) :
    decodeLink p (buildFrame p x y data) = .ok (linkRow x y data (classify data)) := by
  simp only [decodeLink, decodeFrame_buildFrame p x y data hmin hmax]
  cases classify data <;> rfl

/-- Settles O56, by cases on the instruction: the words decode alike for every parameter set, and a link frame by
`decodeLink_buildFrame`, where an ACK or NAK frame has 6 bytes, the largest minimum admitted. -/
theorem everyParameterSetDecodesWhatItEncodes : Obligations.EveryParameterSetDecodesWhatItEncodes := by
  intro p i hp hi
  have hmin : p.minFrame ≤ 6 := minFrame_le_six hp
  cases i with
  | rd r => exact decodeWord_rd r
  | wr r d =>
    simp only [Instr.wellFormedWith, Bool.and_eq_true, Bool.or_eq_true, decide_eq_true_eq, beq_iff_eq] at hi
    obtain ⟨hr, hd⟩ := hi
    exact decodeWord_wr hr hd
  | rdb sp a => exact decodeWord_rdb sp a
  | wrb sp a b => exact decodeWord_wrb sp a b
  | crcClr => exact decodeWord_command (commandCode .crcClr)
  | crcUpd => exact decodeWord_command (commandCode .crcUpd)
  | crcBuf => exact decodeWord_command (commandCode .crcBuf)
  | encode => exact decodeWord_command (commandCode .encode)
  | decode => exact decodeWord_command (commandCode .decode)
  | validate => exact decodeWord_command (commandCode .validate)
  | reservedCommand v =>
    simp only [Instr.wellFormedWith, beq_iff_eq] at hi
    exact (decodeWord_command v).trans (congrArg _ (decodeCommand_of_none hi))
  | reset => rfl
  | frame x y data =>
    simp only [Instr.wellFormedWith, Bool.and_eq_true, decide_eq_true_eq, beq_iff_eq] at hi
    obtain ⟨⟨hsize, hmax⟩, hclass⟩ := hi
    have hfit : p.minFrame ≤ data.length + 5 := by
      simp only [hdrLen, trlLen] at hsize; omega
    exact (decodeLink_buildFrame x y hfit hmax).trans (by rw [hclass, linkRow])
  | frameAck x y => exact decodeLink_buildFrame x y (data := [ackByte]) hmin (by decide)
  | frameNak x y => exact decodeLink_buildFrame x y (data := [nakByte]) hmin (by decide)

namespace Machine

/-! `ENCODE` and `DECODE` on buffers that hold what they read, for any parameters. -/

/-- `ENCODE` of a Command within the limits whose parameters are written completes. -/
theorem runEncode_holds (p : Config) {s : State} {params : List Byte} (hmax : s.plen.toNat ≤ maxParams)
    (hl : params.length = s.plen.toNat) (hB : Holds s.pbuf params) : runEncode p s = .next (encodeOk p s params) := by
  simp [runEncode, Nat.not_lt.2 hmax, (paramBytes_ok_iff s params).2 ⟨hl, hB⟩]

theorem encodeOk_txLen_toNat (p : Config) {s : State} {params : List Byte} (hmax : s.plen.toNat ≤ maxParams) :
    (encodeOk p s params).txLen.toNat = 6 + s.plen.toNat := by
  rw [maxParams_eq] at hmax
  show (BitVec.ofNat 8 (6 + s.plen.toNat)).toNat = _
  rw [BitVec.toNat_ofNat, Nat.mod_eq_of_lt (by omega)]

/-- After a successful `ENCODE`, `TXBUF` holds the frame of the Command (41_encode.md R101). -/
theorem encodeOk_holds_frame (p : Config) {s : State} {params : List Byte} (hl : params.length = s.plen.toNat) :
    Holds (encodeOk p s params).txbuf (buildFrame p s.syncVal s.addrVal (s.opcode :: params)) := by
  intro i hi
  have hlen : i < 6 + s.plen.toNat := by
    rw [buildFrame_length, List.length_cons] at hi; omega
  rw [encodeOk_txbuf_read hl, if_pos hlen, List.getD_eq_getElem _ _ hi]

/-- `DECODE` of a received frame completes, with the frame's own header and checksum in the frame registers
(42_decode_validate.md R111, R116). -/
theorem runDecode_buildFrame {p : Config} {u : State} {x y : Byte} {data : List Byte}
    (hmin : p.minFrame ≤ data.length + 5) (hmax : data.length ≤ maxData) (hl : u.rxLen.toNat = data.length + 5)
    (hB : Holds u.rxbuf (buildFrame p x y data)) :
    runDecode p u = .next (complete (acceptFrame (buildFrame p x y data) (crc16 p (frameBody x y data))
      (afterChecksum p (buildFrame p x y data) u))) := by
  rw [runDecode, decodeThen_holds finishDecode (by omega) (by rw [buildFrame_length, hl]) hB,
    decodeFrame_buildFrame p x y data hmin hmax]
  rfl

/-- A buffer that holds a frame has the payload's byte `i` at index `3 + i` (30_encoding.md R60). -/
theorem Holds.read_payload {m : Memory} {p : Config} {x y : Byte} {data : List Byte}
    (h : Holds m (buildFrame p x y data)) {i : Nat} (hi : i < data.length) : m.read (3 + i) = some (data.getD i 0#8) := by
  rw [h.read_getD (by rw [buildFrame_length]; omega), buildFrame_getD_payload p x y data hi]

end Machine

/-- Settles O57: `ENCODE` leaves the frame of the Command in `TXBUF`, and `DECODE` of any copy of it accepts it and leaves
`RXBUF` as it was. -/
theorem everyParameterSetRoundTrips : Obligations.EveryParameterSetRoundTrips := by
  intro p s params hp hl hmax hB
  have hmin : p.minFrame ≤ (s.opcode :: params).length + 5 := (minFrame_le_six hp).trans (by simp)
  have hdata : (s.opcode :: params).length ≤ maxData := by
    rw [List.length_cons, hl]; exact Nat.succ_le_succ hmax
  have hpar : params.length ≤ maxParams := hl ▸ hmax
  have htx : (encodeOk p s params).txLen.toNat = (s.opcode :: params).length + 5 := by
    rw [encodeOk_txLen_toNat p hmax, List.length_cons, hl]; omega
  refine ⟨encodeOk p s params, buildFrame p s.syncVal s.addrVal (s.opcode :: params), runEncode_holds p hmax hl hB,
    if_pos hpar, by rw [buildFrame_length, htx], encodeOk_holds_frame p hl, fun u hu hR => ?_⟩
  refine ⟨_, runDecode_buildFrame hmin hdata (by rw [hu, htx]) hR, rfl, rfl,
    buildFrame_getD_sync p _ s.addrVal (s.opcode :: params), buildFrame_getD_address p s.syncVal _ (s.opcode :: params),
    ?payLen, ?opcode, ?params⟩
  case payLen =>
    rw [complete_payLen, acceptFrame_payLen, buildFrame_length, Nat.add_sub_cancel, List.length_cons, BitVec.toNat_ofNat,
      Nat.mod_eq_of_lt (by omega), Nat.add_comm]
  case opcode => exact hR.read_payload (i := 0) (by simp)
  case params =>
    intro i hi
    have hbyte := hR.read_payload (i := i + 1) (by simpa using hi)
    rw [show 3 + (i + 1) = 4 + i by omega, List.getD_cons_succ] at hbyte
    exact hbyte.trans (hB.read_getD hi).symm

/-- Settles O55, from `execWith_fcb` and `stepWith_fcb`; the clauses on `RESET` and `CRC.CLR` are their definitions. -/
theorem parametersAreArgumentsOfTheMachine : Obligations.ParametersAreArgumentsOfTheMachine :=
  ⟨rfl, execWith_fcb, stepWith_fcb, fun p s => ⟨resetBlock p s, rfl, rfl, rfl, rfl, rfl⟩, fun _ _ => rfl⟩

end Sys2Proof
end

section
/-! PROOFS. The state of 10_state.md: who writes each of its parts, the reset state, and the invariants TX and RX in every reachable state. -/

namespace Sys2Proof

open Sys2Proof.Machine

namespace Machine

/-! The parts of the state by their writers (10_state.md R13 to R30). -/

/-- `TXVALID`, `TXLEN` and `TXBUF` are as they were. -/
def SameTransmitSide (s t : State) : Prop :=
  t.txValid = s.txValid ∧ t.txLen = s.txLen ∧ t.txbuf = s.txbuf

/-- The decode result, `RXLEN` and `RXBUF` are as they were. -/
def SameReceiveSide (s t : State) : Prop :=
  t.fValid = s.fValid ∧ t.cls = s.cls ∧ t.fSync = s.fSync ∧ t.fAddr = s.fAddr ∧ t.fLen = s.fLen ∧
    t.fCrc = s.fCrc ∧ t.payLen = s.payLen ∧ t.rxLen = s.rxLen ∧ t.rxbuf = s.rxbuf

/-- What `i` leaves of the host's own part of the state: each register, `PBUF` where `i` is not the host's write of it,
and what the host has issued. -/
def KeepsHostOwned (i : Instr) (s t : State) : Prop :=
  ((∀ d, i ≠ .wr .din d) → t.din = s.din) ∧
  ((∀ d, i ≠ .wr .syncVal d) → t.syncVal = s.syncVal) ∧
  ((∀ d, i ≠ .wr .addrVal d) → t.addrVal = s.addrVal) ∧
  ((∀ d, i ≠ .wr .opcode d) → t.opcode = s.opcode) ∧
  ((∀ d, i ≠ .wr .plen d) → t.plen = s.plen) ∧
  ((∀ a b, i ≠ .wrb .pbuf a b) → t.pbuf = s.pbuf) ∧
  t.inputs = s.inputs

/-- The host's writes of `RXLEN` and `RXBUF`, link frames among them (log 6). -/
inductive WritesReceiveSide : Instr → Prop
  | rxLen (d : Half) : WritesReceiveSide (.wr .rxLen d)
  | rxbuf (a b : Byte) : WritesReceiveSide (.wrb .rxbuf a b)
  | frame (x y : Byte) (data : List Byte) : WritesReceiveSide (.frame x y data)
  | frameAck (x y : Byte) : WritesReceiveSide (.frameAck x y)
  | frameNak (x y : Byte) : WritesReceiveSide (.frameNak x y)

theorem SameTransmitSide.refl (s : State) : SameTransmitSide s s := ⟨rfl, rfl, rfl⟩

theorem SameReceiveSide.refl (s : State) : SameReceiveSide s s := ⟨rfl, rfl, rfl, rfl, rfl, rfl, rfl, rfl, rfl⟩

theorem SameTransmitSide.txInvariant {s t : State} (h : SameTransmitSide s t) (hs : TxInvariant s) : TxInvariant t := by
  obtain ⟨hv, hl, hb⟩ := h
  unfold TxInvariant txBytes at hs ⊢
  rwa [hv, hl, hb]

theorem SameReceiveSide.rxInvariant {s t : State} (h : SameReceiveSide s t) (hs : RxInvariant s) : RxInvariant t := by
  obtain ⟨hv, hc, hsync, haddr, hlen, hcrc, hpay, hl, hb⟩ := h
  unfold RxInvariant rxBytes at hs ⊢
  rwa [hv, hc, hsync, haddr, hlen, hcrc, hpay, hl, hb]

/-- A state whose decode result is withdrawn keeps invariant RX. -/
theorem rxInvariant_of_withdrawn {t : State} (h : invalidateFrame t = t) : RxInvariant t := by
  rw [← h]
  exact ⟨fun hv => by simp at hv, fun _ => ⟨rfl, rfl, rfl, rfl, rfl, rfl⟩⟩

/-! Which instructions start a command, and what the other ones keep. -/

/-- The instruction whose word is a `WR` to `CMD` of the command's code (30_encoding.md R69). -/
def commandInstr : Command → Instr
  | .crcClr => .crcClr
  | .crcUpd => .crcUpd
  | .crcBuf => .crcBuf
  | .encode => .encode
  | .decode => .decode
  | .validate => .validate

/-- The instructions that dispatch a command, with the command; `none` for a code that names none (43_host_access.md
R134). -/
inductive Starts : Instr → Option Command → Prop
  | wrCmd (d : Half) : Starts (.wr .cmd d) (commandOfCode (lowByte d))
  | command (c : Command) : Starts (commandInstr c) (some c)
  | reserved (v : Byte) : Starts (.reservedCommand v) none

/-- An instruction that starts `c` is its own row or a `WR` to `CMD` of its code. -/
theorem Starts.eq_of_some {i : Instr} {c : Command} (h : Starts i (some c)) :
    i = commandInstr c ∨ ∃ d, i = .wr .cmd d ∧ lowByte d = commandCode c := by
  generalize ho : some c = o at h
  cases h with
  | wrCmd d => exact .inr ⟨d, rfl, commandCode_of_commandOfCode ho.symm⟩
  | command c' => cases ho; exact .inl rfl
  | reserved v => cases ho

/-- What an instruction that starts no command, and is not RESET, does to the parts of the state. -/
structure TransactionEffect (i : Instr) (s t : State) : Prop where
  err : t.err = s.err
  crc : t.crc = s.crc
  transmit : SameTransmitSide s t
  receive : SameReceiveSide s t ∨ WritesReceiveSide i ∧ invalidateFrame t = t
  canonical : BuffersCanonical s → BuffersCanonical t
  hostOwned : KeepsHostOwned i s t

/-- An instruction that changes at most the value returned. -/
theorem TransactionEffect.of_reply (i : Instr) (s : State) (r : Reply) : TransactionEffect i s { s with reply := r } where
  err := rfl
  crc := rfl
  transmit := .refl s
  receive := .inl (.refl s)
  canonical := id
  hostOwned := by simp [KeepsHostOwned]

/-- A host write of a register that only the host writes. -/
theorem TransactionEffect.of_hostOwned {i : Instr} {s t : State}
    (h : KeepsHostOwned i s t) (hpbuf : s.pbuf.wf → t.pbuf.wf)
    (ht : t = { s with din := t.din, syncVal := t.syncVal, addrVal := t.addrVal, opcode := t.opcode, plen := t.plen,
                       pbuf := t.pbuf, reply := t.reply }) : TransactionEffect i s t where
  err := by rw [ht]
  crc := by rw [ht]
  transmit := by rw [ht]; exact .refl s
  receive := by rw [ht]; exact .inl (.refl s)
  canonical := fun ⟨hp, htx, hrx⟩ => by rw [ht]; exact ⟨hpbuf hp, htx, hrx⟩
  hostOwned := h

/-- A host write of `RXLEN` or `RXBUF`. -/
theorem TransactionEffect.of_writesReceiveSide {i : Instr} {s : State} (hi : WritesReceiveSide i) (n : Byte)
    {m : Memory} (hm : s.rxbuf.wf → m.wf) :
    TransactionEffect i s (noReply (invalidateFrame { s with rxLen := n, rxbuf := m })) where
  err := rfl
  crc := rfl
  transmit := .refl s
  receive := .inr ⟨hi, rfl⟩
  canonical := fun ⟨hp, htx, hrx⟩ => ⟨hp, htx, hm hrx⟩
  hostOwned := by simp [KeepsHostOwned]

/-- An instruction that answers a next state is RESET, starts a command, or is a host transaction of neither kind. -/
theorem Effect.reset_or_command_or_transaction {i : Instr} {s t : State} (h : Effect s i t) :
    (i = .reset ∧ t = resetBlock fcb s) ∨ (∃ c, Starts i c ∧ CommandEffect s c t) ∨ TransactionEffect i s t := by
  cases h with
  | reset => exact .inl ⟨rfl, rfl⟩
  | wrCmd d t h => exact .inr (.inl ⟨_, .wrCmd d, h⟩)
  | command i c t hi h =>
    have hc : i = commandInstr c := by revert hi; cases c <;> simp [commandInstr]
    exact .inr (.inl ⟨_, hc ▸ .command c, h⟩)
  | reserved v => exact .inr (.inl ⟨_, .reserved v, .illegal⟩)
  | rd r => exact .inr (.inr (.of_reply _ s _))
  | rdb sp a b h => exact .inr (.inr (.of_reply _ s _))
  | wrIgnored r d hr => exact .inr (.inr (.of_reply _ s _))
  | wrbTxbuf a b => exact .inr (.inr (.of_reply _ s _))
  | wrDin d | wrSyncVal d | wrAddrVal d | wrOpcode d | wrPlen d =>
    exact .inr (.inr (.of_hostOwned (by simp [KeepsHostOwned]) id rfl))
  | wrbPbuf a b =>
    exact .inr (.inr (.of_hostOwned (by simp [KeepsHostOwned]) (fun hm => Memory.write_wf hm a.isLt b) rfl))
  | wrRxLen d => exact .inr (.inr (.of_writesReceiveSide (.rxLen d) _ id))
  | wrbRxbuf a b => exact .inr (.inr (.of_writesReceiveSide (.rxbuf a b) _ fun hm => Memory.write_wf hm a.isLt b))
  | load i bytes hi hl =>
    have hw : WritesReceiveSide i := by cases i <;> cases hi <;> constructor
    exact .inr (.inr (.of_writesReceiveSide hw _ fun hm => Memory.writeBytes_wf bytes hm (by simp only [bufSize]; omega)))

/-! What the commands keep. -/

@[simp] theorem encodeOk_err (p : Config) (s : State) (params : List Byte) : (encodeOk p s params).err = 0#4 := rfl

section CommandEffect

variable {s t : State} {c : Option Command}

/-- No command writes a register that the host owns, or `PBUF` (10_state.md R17, R19 to R22, R28). -/
theorem CommandEffect.keepsHostOwned (h : CommandEffect s c t) (i : Instr) : KeepsHostOwned i s t := by
  have hsame : t.din = s.din ∧ t.syncVal = s.syncVal ∧ t.addrVal = s.addrVal ∧ t.opcode = s.opcode ∧ t.plen = s.plen ∧
      t.pbuf = s.pbuf ∧ t.inputs = s.inputs := by
    cases h <;> exact ⟨rfl, rfl, rfl, rfl, rfl, rfl, rfl⟩
  obtain ⟨hdin, hsync, haddr, hop, hplen, hpbuf, hin⟩ := hsame
  exact ⟨fun _ => hdin, fun _ => hsync, fun _ => haddr, fun _ => hop, fun _ => hplen, fun _ => hpbuf, hin⟩

/-- Only `ENCODE` writes the transmit side (10_state.md R14, R23, R29). -/
theorem CommandEffect.sameTransmitSide (h : CommandEffect s c t) (hc : c ≠ some .encode) : SameTransmitSide s t := by
  cases h with
  | encodeTooLong | encodeOk => exact absurd rfl hc
  | _ => exact ⟨rfl, rfl, rfl⟩

/-- Only `DECODE` and `VALIDATE` write the decode result, and no command the received buffer (10_state.md R15, R16, R24). -/
theorem CommandEffect.sameReceiveSide (h : CommandEffect s c t) (hd : c ≠ some .decode) (hv : c ≠ some .validate) :
    SameReceiveSide s t := by
  cases h with
  | decoded => exact absurd rfl hd
  | classed | nak => exact absurd rfl hv
  | short c hc | bad c hc =>
    rcases hc with rfl | rfl
    · exact absurd rfl hd
    · exact absurd rfl hv
  | _ => exact .refl s

/-- A command that ends in `TooShort`, `TooLong` or `IllegalCommand` leaves `CRC` as it was, and so does any `ENCODE`
that ends in an error (10_state.md R18). -/
theorem CommandEffect.err_of_crc_ne (h : CommandEffect s c t) (hcrc : t.crc ≠ s.crc) :
    t.err ≠ 1#4 ∧ t.err ≠ 5#4 ∧ t.err ≠ 6#4 ∧ (c = some .encode → t.err = 0#4) := by
  cases h with
  | short | encodeTooLong | illegal => exact absurd rfl hcrc
  | bad c hc B e h hl hB hd he =>
    have hcmd : c ≠ .encode := by rintro rfl; simp at hc
    rcases he with rfl | rfl <;> simp [errCode, hcmd]
  | nak => simp [errCode]
  | _ => simp

theorem errCode_toNat_le (e : Err) : (errCode e).toNat ≤ 6 := by cases e <;> decide

/-- A command leaves 0 or the code of an error in `ERR` (60_exceptions.md R140). -/
theorem CommandEffect.errLegal (h : CommandEffect s c t) : ErrLegal t := by
  have herr : t.err = 0#4 ∨ ∃ e, t.err = errCode e := by
    cases h with
    | encodeTooLong | short | bad | nak | illegal => exact .inr ⟨_, raise_err _ _⟩
    | _ => exact .inl rfl
  unfold ErrLegal
  rcases herr with h0 | ⟨e, he⟩
  · simp [h0]
  · rw [he]; exact errCode_toNat_le e

end CommandEffect

/-! `ENCODE` (41_encode.md R101). -/

/-- The two exits of `ENCODE`. -/
theorem exec_encode_next {s t : State} (h : exec .encode s = .next t) :
    (249 < s.plen.toNat ∧ t = raise .tooLong { s with txValid := false, txLen := 0#8 }) ∨
    (s.plen.toNat ≤ 249 ∧ ∃ params, params.length = s.plen.toNat ∧ Holds s.pbuf params ∧ t = encodeOk fcb s params) := by
  have h : runEncode fcb s = .next t := h
  rcases runEncode_cases fcb s with ⟨hm, e⟩ | ⟨-, f, -, e⟩ | ⟨hm, params, hl, hB, e⟩ <;> rw [e] at h <;> cases h
  · exact .inl ⟨hm, rfl⟩
  · exact .inr ⟨hm, params, hl, hB, rfl⟩

/-- The frame `ENCODE` writes fits in `TXBUF`. -/
theorem encodeOk_txbuf_wf (p : Config) {s : State} {params : List Byte} (hmax : s.plen.toNat ≤ maxParams)
    (hl : params.length = s.plen.toNat) (hm : s.txbuf.wf) : (encodeOk p s params).txbuf.wf := by
  rw [maxParams_eq] at hmax
  have hbody : (encodeBody s params).length = 4 + s.plen.toNat := by
    simp [encodeBody, hl]; omega
  refine Memory.writeBytes_wf _ (Memory.writeBytes_wf _ hm ?_) ?_
  · rw [hbody, bufSize]; omega
  · rw [trailerBytes_length, bufSize]; omega

/-- A successful `ENCODE` establishes invariant TX: `TXBUF` holds the frame of the Command. -/
theorem encodeOk_txInvariant {s : State} {params : List Byte} (hmax : s.plen.toNat ≤ maxParams)
    (hl : params.length = s.plen.toNat) : TxInvariant (encodeOk fcb s params) := by
  have hlen : (encodeOk fcb s params).txLen.toNat = (s.opcode :: params).length + 5 := by
    rw [encodeOk_txLen_toNat fcb hmax, List.length_cons, hl]; omega
  refine ⟨fun _ => ⟨buildFrame fcb s.syncVal s.addrVal (s.opcode :: params), ?bytes, ?minimum, ?length, ?trailer⟩,
    fun hv => by cases hv⟩
  case bytes => exact (txBytes_ok_iff _ _).2 ⟨by rw [buildFrame_length, hlen], encodeOk_holds_frame fcb hl⟩
  case minimum => rw [encodeOk_txLen_toNat fcb hmax]; omega
  case length =>
    show _ = BitVec.ofNat 8 (6 + s.plen.toNat)
    rw [buildFrame_getD_length, List.length_cons, hl]
    congr 1; omega
  case trailer =>
    rw [hlen, Nat.add_sub_assoc (by omega), Nat.add_sub_assoc (by omega), buildFrame_take, ← buildFrame_trailer,
      trailerNumber_fcb]

/-- `ENCODE` reads nothing it writes, so a second one writes the same bytes over the first one's. -/
theorem encodeOk_encodeOk (p : Config) {s : State} {params : List Byte} (hmax : s.plen.toNat ≤ maxParams)
    (hl : params.length = s.plen.toNat) (hm : s.txbuf.wf) :
    encodeOk p (encodeOk p s params) params = encodeOk p s params := by
  have hwf := encodeOk_txbuf_wf p hmax hl hm
  have hbuf : (encodeOk p (encodeOk p s params) params).txbuf = (encodeOk p s params).txbuf := by
    refine Memory.ext_of_wf (encodeOk_txbuf_wf p (s := encodeOk p s params) hmax hl hwf) hwf fun j => ?_
    rw [encodeOk_txbuf_read (s := encodeOk p s params) hl, encodeOk_txbuf_read hl]
    by_cases hj : j < 6 + s.plen.toNat
    · rw [if_pos hj]; exact if_pos hj
    · rw [if_neg hj]; exact if_neg hj
  exact congrArg (fun m => { encodeOk p s params with txbuf := m }) hbuf

/-! `DECODE` and `VALIDATE` (42_decode_validate.md R111, R114). -/

/-- The payload of an accepted frame is the one byte `b` exactly when `PAY_LEN` is 1 and the fourth byte is `b`. -/
theorem data_eq_singleton_iff {B : List Byte} {F : Frame} (hd : decodeFrame fcb B = .ok F) (b : Byte) :
    F.data = [b] ↔ BitVec.ofNat 8 (B.length - 5) = 1#8 ∧ B.getD 3 0#8 = b := by
  obtain ⟨-, -, -, hfirst, hlen⟩ := payload_of_decodeFrame hd
  rw [hlen, ← hfirst]
  constructor
  · intro h; simp [h]
  · rintro ⟨h1, h2⟩
    obtain ⟨x, hx⟩ := List.length_eq_one_iff.1 h1
    simpa [hx] using h2

/-- The payload a class code stands for (42_decode_validate.md R113, 10_state.md R16). -/
theorem data_of_classCode {k : BitVec 2} {data : List Byte} (hk : k = 0#2 ∨ k = classCode (classify data)) :
    (k = 1#2 → data = [0x00#8]) ∧ (k = 2#2 → data = [0xFF#8]) ∧
      (k = 3#2 → data ≠ [0x00#8] ∧ data ≠ [0xFF#8]) := by
  rcases hk with rfl | rfl
  · simp
  · rcases classify_cases data with ⟨rfl, hc⟩ | ⟨rfl, hc⟩ | ⟨hack, hnak, hc⟩ <;> rw [hc]
    · decide
    · decide
    · exact ⟨fun h => absurd h (by decide), fun h => absurd h (by decide), fun _ => ⟨hack, hnak⟩⟩

/-- The frame registers of an accepted frame, with no class or the class of its payload, establish invariant RX. -/
theorem acceptFrame_rxInvariant {u : State} {B : List Byte} {F : Frame} {k : BitVec 2} (hl : B.length = u.rxLen.toNat)
    (hB : Holds u.rxbuf B) (hd : decodeFrame fcb B = .ok F) (hk : k = 0#2 ∨ k = classCode (classify F.data)) :
    RxInvariant { acceptFrame B F.crc16 u with cls := k } := by
  obtain ⟨hmin, hcrc, hlen, hF⟩ := (decodeFrame_ok_iff fcb B F).1 hd
  have htrl : F.crc16 = B.getD (B.length - 1) 0#8 ++ B.getD (B.length - 2) 0#8 := by rw [hF]; rfl
  have hrxLen : B.getD 2 0#8 = u.rxLen := BitVec.eq_of_toNat_eq (by rw [hlen, hl])
  have hpay : (BitVec.ofNat 8 (B.length - 5)).toNat = B.length - 5 := by
    rw [BitVec.toNat_ofNat, Nat.mod_eq_of_lt]
    have := u.rxLen.isLt
    omega
  obtain ⟨hack, hnak, hdata⟩ := data_of_classCode hk
  refine ⟨fun _ => ⟨B, (rxBytes_ok_iff _ _).2 ⟨hl, hB⟩, hl ▸ hmin, hrxLen, ?checksum, ?trailer, rfl, rfl, hrxLen, ?payLen,
    fun h => (data_eq_singleton_iff hd _).1 (hack h), fun h => (data_eq_singleton_iff hd _).1 (hnak h),
    fun h ⟨hone, hbyte⟩ => ?data⟩, nofun⟩
  case checksum =>
    show crc16 fcb (B.take (u.rxLen.toNat - 2)) = F.crc16
    rw [← hl, hcrc, htrl, trailerNumber_fcb]
  case trailer =>
    show B.getD (u.rxLen.toNat - 1) 0#8 ++ B.getD (u.rxLen.toNat - 2) 0#8 = F.crc16
    rw [← hl, htrl]
  case payLen =>
    show (BitVec.ofNat 8 (B.length - 5)).toNat = u.rxLen.toNat - 5
    rw [hpay, hl]
  case data =>
    obtain ⟨hnotAck, hnotNak⟩ := hdata h
    rcases hbyte with h0 | hFF
    · exact hnotAck ((data_eq_singleton_iff hd _).2 ⟨hone, h0⟩)
    · exact hnotNak ((data_eq_singleton_iff hd _).2 ⟨hone, hFF⟩)

/-! The invariant of the block. -/

section CommandEffect

variable {s t : State} {c : Option Command}

theorem CommandEffect.buffersCanonical (h : CommandEffect s c t) (hs : BuffersCanonical s) : BuffersCanonical t := by
  cases h with
  | encodeOk params hmax hl hB =>
    obtain ⟨hp, htx, hrx⟩ := hs
    exact ⟨hp, encodeOk_txbuf_wf fcb hmax hl htx, hrx⟩
  | _ => exact hs

theorem CommandEffect.txInvariant (h : CommandEffect s c t) (hs : TxInvariant s) : TxInvariant t := by
  by_cases hc : c = some .encode
  · cases h with
    | encodeTooLong => exact ⟨nofun, fun _ => rfl⟩
    | encodeOk params hmax hl hB => exact encodeOk_txInvariant hmax hl
    | short c hd | bad c hd => cases hc; simp at hd
    | _ => cases hc
  · exact (h.sameTransmitSide hc).txInvariant hs

theorem CommandEffect.rxInvariant (h : CommandEffect s c t) (hs : RxInvariant s) : RxInvariant t := by
  cases h with
  | short | bad => exact rxInvariant_of_withdrawn rfl
  | decoded B F hmin hl hB hd =>
    exact acceptFrame_rxInvariant (u := afterChecksum fcb B s) hl hB hd (.inl rfl)
  | classed B F hmin hl hB hd k hk hcls =>
    exact acceptFrame_rxInvariant (u := afterChecksum fcb B s) hl hB hd (.inr (hcls ▸ rfl))
  | nak B F hmin hl hB hd hcls =>
    exact acceptFrame_rxInvariant (u := afterChecksum fcb B s) hl hB hd (.inr (hcls ▸ rfl))
  | _ => exact SameReceiveSide.rxInvariant (.refl s) hs

theorem CommandEffect.legal (h : CommandEffect s c t) (hs : Legal s) : Legal t := by
  obtain ⟨hbuf, -, htx, hrx⟩ := hs
  exact ⟨h.buffersCanonical hbuf, h.errLegal, h.txInvariant htx, h.rxInvariant hrx⟩

end CommandEffect

theorem TransactionEffect.legal {i : Instr} {s t : State} (h : TransactionEffect i s t) (hs : Legal s) : Legal t := by
  obtain ⟨hbuf, herr, htx, hrx⟩ := hs
  refine ⟨h.canonical hbuf, ?_, h.transmit.txInvariant htx, ?_⟩
  · unfold ErrLegal; rw [h.err]; exact herr
  · rcases h.receive with hsame | ⟨-, hw⟩
    · exact hsame.rxInvariant hrx
    · exact rxInvariant_of_withdrawn hw

/-- The state RESET leaves is legal, whatever it leaves of the inputs. -/
theorem resetBlock_legal (s : State) : Legal (resetBlock fcb s) :=
  ⟨⟨Memory.nil_wf, Memory.nil_wf, Memory.nil_wf⟩, Nat.zero_le 6, ⟨nofun, fun _ => rfl⟩,
    rxInvariant_of_withdrawn rfl⟩

theorem exec_legal {i : Instr} {s t : State} (h : exec i s = .next t) (hs : Legal s) : Legal t := by
  rcases (exec_effect h).reset_or_command_or_transaction with ⟨-, rfl⟩ | ⟨c, -, hc⟩ | ht
  · exact resetBlock_legal s
  · exact hc.legal hs
  · exact ht.legal hs

/-- What the host has issued takes no part in legality. -/
theorem Legal.with_inputs {s : State} (hs : Legal s) (is : List Input) : Legal { s with inputs := is } := hs

end Machine

/-- Settles O51: the step that takes an input runs one instruction, which is RESET, a command or another host
transaction, and each keeps the state legal. -/
theorem stepKeepsTheStateLegal : Obligations.StepKeepsTheStateLegal := by
  intro s t hs h
  rcases step_cases s with ⟨-, e⟩ | ⟨inp, rest, why, -, -, e⟩ | ⟨inp, rest, i, -, -, e⟩ <;> rw [e] at h
  · cases h; exact hs
  · cases h
  · exact exec_legal h (hs.with_inputs rest)

/-- Settles O9: `State.reset` is what RESET leaves of itself. -/
theorem resetStateIsLegal : Obligations.ResetStateIsLegal := resetBlock_legal State.reset

namespace Machine

/-- Every reachable state is legal. -/
theorem Reachable.legal {s : State} (h : Reachable s) : Legal s := by
  induction h with
  | reset => exact resetStateIsLegal
  | issue s is _ ih => exact ih.with_inputs is
  | step s t _ hst ih => exact stepKeepsTheStateLegal s t ih hst

end Machine

/-- Settles O52, from `Reachable.legal`: reading `TXLEN` bytes of `TXBUF` is holding them. -/
theorem encodedFrameStaysConsistent : Obligations.EncodedFrameStaysConsistent := by
  intro s h
  obtain ⟨-, -, ⟨hvalid, hinvalid⟩, -⟩ := h.legal
  refine ⟨fun hv => ?_, hinvalid⟩
  obtain ⟨f, hf, hmin, hrest⟩ := hvalid hv
  obtain ⟨hl, hB⟩ := (txBytes_ok_iff s f).1 hf
  exact ⟨hmin, Nat.le_of_lt_succ s.txLen.isLt, f, hl, hB, hrest⟩

/-- Settles O53, from `Reachable.legal`: reading `RXLEN` bytes of `RXBUF` is holding them. -/
theorem decodedFrameStaysConsistent : Obligations.DecodedFrameStaysConsistent := by
  intro s h
  obtain ⟨-, -, -, hvalid, hinvalid⟩ := h.legal
  refine ⟨fun hv => ?_, hinvalid⟩
  obtain ⟨B, hB, hmin, hrest⟩ := hvalid hv
  obtain ⟨hl, hB⟩ := (rxBytes_ok_iff s B).1 hB
  exact ⟨hmin, Nat.le_of_lt_succ s.rxLen.isLt, B, hl, hB, hrest⟩

/-- Settles O19: an instruction that starts no command and is not RESET keeps `ERR`. -/
theorem errChangesOnlyByCommandOrReset : Obligations.ErrChangesOnlyByCommandOrReset := by
  intro i s t h hne
  rcases (exec_effect h).reset_or_command_or_transaction with ⟨rfl, -⟩ | ⟨c, hi, -⟩ | ht
  · simp
  · cases hi with
    | wrCmd d => exact .inr (.inl ⟨d, rfl⟩)
    | command c => exact .inl (by cases c <;> simp [commandInstr])
    | reserved v => exact .inr (.inr ⟨v, rfl⟩)
  · exact absurd ht.err hne

/-- Settles O20, by the two exits of `ENCODE` and, for the other instructions, by what the rest keep. -/
theorem transmitSideChangesOnlyByEncodeOrReset : Obligations.TransmitSideChangesOnlyByEncodeOrReset := by
  refine ⟨fun s t h => ?_, fun s t h => by cases h; rfl, fun i s t h henc hreset hwr => ?_⟩
  · rcases exec_encode_next h with ⟨hlong, rfl⟩ | ⟨hmax, params, -, -, rfl⟩
    · simp [errCode, Nat.not_le.2 hlong]
    · exact ⟨iff_of_true rfl hmax, iff_of_true rfl hmax⟩
  · rcases (exec_effect h).reset_or_command_or_transaction with ⟨rfl, -⟩ | ⟨c, hi, hc⟩ | ht
    · exact absurd rfl hreset
    · refine hc.sameTransmitSide ?_
      rintro rfl
      rcases hi.eq_of_some with rfl | ⟨d, rfl, hd⟩
      · exact henc rfl
      · exact hwr d rfl hd
    · exact ht.transmit

/-- Settles O21: the commands other than `DECODE` and `VALIDATE`, and the transactions that do not write the receive side,
keep it. -/
theorem decodeResultStaysUntilWithdrawn : Obligations.DecodeResultStaysUntilWithdrawn := by
  intro i s t h hdec hval hreset hwr hrxLen hrxbuf hframe hack hnak
  rcases (exec_effect h).reset_or_command_or_transaction with ⟨rfl, -⟩ | ⟨c, hi, hc⟩ | ht
  · exact absurd rfl hreset
  · refine hc.sameReceiveSide ?decode ?validate
    all_goals
      rintro rfl
      rcases hi.eq_of_some with rfl | ⟨d, rfl, hd⟩
    · exact hdec rfl
    · exact (hwr d rfl).1 hd
    · exact hval rfl
    · exact (hwr d rfl).2 hd
  · rcases ht.receive with hsame | ⟨hw, -⟩
    · exact hsame
    · cases hw with
      | rxLen d => exact absurd rfl (hrxLen d)
      | rxbuf a b => exact absurd rfl (hrxbuf a b)
      | frame x y data => exact absurd rfl (hframe x y data)
      | frameAck x y => exact absurd rfl (hack x y)
      | frameNak x y => exact absurd rfl (hnak x y)

/-- Settles O23: commands keep what the host owns, and a transaction keeps all but the register it writes. -/
theorem hostOwnedStateChangesOnlyByItsOwnWrite : Obligations.HostOwnedStateChangesOnlyByItsOwnWrite := by
  intro i s t h hreset
  rcases (exec_effect h).reset_or_command_or_transaction with ⟨rfl, -⟩ | ⟨c, -, hc⟩ | ht
  · exact absurd rfl hreset
  · exact hc.keepsHostOwned i
  · exact ht.hostOwned

/-- Settles O24: a command that changes `CRC` does not end in `TooShort`, `TooLong` or `IllegalCommand`. -/
theorem crcChangesOnlyByAComputingCommand : Obligations.CrcChangesOnlyByAComputingCommand := by
  intro i s t h hne
  rcases (exec_effect h).reset_or_command_or_transaction with ⟨rfl, -⟩ | ⟨c, hi, hc⟩ | ht
  · simp
  · obtain ⟨hshort, hlong, hillegal, henc⟩ := hc.err_of_crc_ne hne
    cases hi with
    | wrCmd d => simp [hshort, hlong, hillegal]
    | command c => cases c <;> simp [commandInstr, hshort, henc]
    | reserved v => cases hc; exact absurd rfl hne
  · exact absurd ht.crc hne

/-- Settles O37: a failing `ENCODE` fails again alike, and a successful one reads the same Command again. -/
theorem secondEncodeBuildsTheSameFrame : Obligations.SecondEncodeBuildsTheSameFrame := by
  intro s t hs h
  obtain ⟨-, htx, -⟩ := hs
  rcases exec_encode_next h with ⟨hlong, rfl⟩ | ⟨hmax, params, hl, hB, rfl⟩
  · exact ⟨rfl, rfl, rfl, if_pos hlong⟩
  · exact ⟨rfl, rfl, rfl, (runEncode_holds fcb (s := encodeOk fcb s params) hmax hl hB).trans
      (congrArg _ (encodeOk_encodeOk fcb hmax hl htx))⟩

namespace Machine

/-- `DECODE` and `VALIDATE` run `InvalidateFrame` before they read anything it writes (10_state.md R27). -/
theorem decodeThen_invalidateFrame (p : Config) (finish : List Byte → State → State) (s : State) :
    decodeThen p finish (invalidateFrame s) = decodeThen p finish s := rfl

end Machine

/-- Settles O22: the writes by their definitions, `DECODE` and `VALIDATE` by `decodeThen_invalidateFrame`. -/
theorem invalidateFrameClearsSevenLocations : Obligations.InvalidateFrameClearsSevenLocations := by
  intro s
  refine ⟨rfl, decodeThen_invalidateFrame fcb finishDecode s, decodeThen_invalidateFrame fcb finishValidate s,
    ?rxLen, ?rxbuf, ?reset⟩
  case rxLen => intro d t h; cases h; rfl
  case rxbuf => intro a b t h; cases h; rfl
  case reset => intro t h; cases h; rfl

namespace Machine

theorem resetBlock_statusByte (s : State) : statusByte (resetBlock fcb s) = 0x00#8 := by
  show (0#2 ++ BitVec.ofBool false ++ BitVec.ofBool false ++ 0#4 : Byte) = 0x00#8
  decide

end Machine

/-- Settles O8, from `resetBlock_legal`: both states are what RESET leaves of themselves, so their values are its. -/
theorem resetLeavesTheStatedValues : Obligations.ResetLeavesTheStatedValues := by
  intro s
  obtain ⟨-, -, htx, hrx⟩ := resetBlock_legal s
  refine ⟨resetBlock fcb s, rfl, rfl, htx, hrx, fun u hu => ?_⟩
  have hvalues : u = resetBlock fcb u := by rcases hu with rfl | rfl <;> rfl
  rw [hvalues]
  refine ⟨resetBlock_statusByte u, rfl, rfl, rfl, rfl, rfl, rfl, rfl, rfl, rfl, rfl, rfl, rfl, rfl, rfl, rfl, rfl, rfl,
    fun sp j => ?_⟩
  cases sp <;> rfl

namespace Machine

/-- Bit `j` of `STATUS` (10_state.md R12). -/
theorem statusByte_getLsbD (s : State) (j : Nat) :
    (statusByte s).getLsbD j =
      if j < 4 then s.err.getLsbD j
      else if j = 4 then s.txValid
      else if j = 5 then s.fValid
      else s.cls.getLsbD (j - 6) := by
  unfold statusByte
  rw [BitVec.getLsbD_append, BitVec.getLsbD_append, BitVec.getLsbD_append]
  by_cases herr : j < 4
  · simp [herr]
  · by_cases htx : j = 4
    · simp [htx]
    · by_cases hf : j = 5
      · simp [hf]
      · simp [herr, htx, hf, show ¬ j - 4 < 1 by omega, show ¬ j - 4 - 1 < 1 by omega,
          show j - 4 - 1 - 1 = j - 6 by omega]

end Machine

/-- Settles O18: `RD STATUS` returns `statusByte`, zero-extended, whose bits are `statusByte_getLsbD`. -/
theorem statusPacksTheFourFields : Obligations.StatusPacksTheFourFields := by
  refine ⟨fun s => ⟨(statusByte s).setWidth 16, rfl, ?err, ?txValid, ?fValid, ?cls, highByte_setWidth _⟩,
    fun d s => rfl, resetBlock_statusByte State.reset⟩
  case err =>
    refine BitVec.eq_of_getLsbD_eq fun j hj => ?_
    simp [statusByte_getLsbD, hj, show j < 16 by omega]
  case txValid => exact (BitVec.getLsbD_setWidth ..).trans (statusByte_getLsbD s 4)
  case fValid => exact (BitVec.getLsbD_setWidth ..).trans (statusByte_getLsbD s 5)
  case cls =>
    refine BitVec.eq_of_getLsbD_eq fun j hj => ?_
    simp [statusByte_getLsbD, hj, show 6 + j < 16 by omega, show ¬ 6 + j < 4 by omega,
      show 6 + j ≠ 4 by omega, show 6 + j ≠ 5 by omega]

end Sys2Proof
end

section
/-! PROOFS. The buffers of 20_memory.md: what has been written since RESET, the fault of a read of an unwritten byte and the completion of everything else, and reads and repeated writes. -/

namespace Sys2Proof

open Sys2Proof.Machine

namespace Machine

/-! Repeated writes (20_memory.md R48). -/

/-- A second write of the same byte finds it in place, whatever the form of the buffer. -/
theorem Memory.write_write_same (m : Memory) (i : Nat) (b : Byte) : (m.write i b).write i b = m.write i b := by
  induction m with
  | nil => simp [Memory.write]
  | cons c m ih =>
    obtain ⟨a, x⟩ := c
    rcases Nat.lt_trichotomy a i with hlt | rfl | hgt
    · simp [Memory.write, hlt, ih]
    · simp [Memory.write]
    · simp [Memory.write, Nat.not_lt.2 (Nat.le_of_lt hgt), Nat.ne_of_gt hgt]

/-- A `WR` to a read-only register changes at most the value returned (43_host_access.md R131). -/
theorem exec_wr_ignored {r : Reg} (hr : r ∈ [Reg.status, .crc, .txLen, .fSync, .fAddr, .fLen, .fCrc, .payLen])
    (d : Half) (s : State) : exec (.wr r d) s = .next (noReply s) := by
  simp only [List.mem_cons, List.not_mem_nil, or_false] at hr
  rcases hr with rfl | rfl | rfl | rfl | rfl | rfl | rfl | rfl <;> rfl

/-- A `WR` to a register other than `CMD`, done a second time, answers the same state. -/
theorem exec_wr_again {r : Reg} (hr : r ≠ .cmd) {d : Half} {s t : State} (h : exec (.wr r d) s = .next t) :
    exec (.wr r d) t = .next t := by
  cases exec_effect h with
  | wrCmd => exact absurd rfl hr
  | wrIgnored r d hr => exact exec_wr_ignored hr d (noReply s)
  | load i bytes hi => cases hi
  | command i c t hi => simp at hi
  | wrDin | wrSyncVal | wrAddrVal | wrOpcode | wrPlen | wrRxLen => rfl

/-- A `WRB`, done a second time, answers the same state. -/
theorem exec_wrb_again {sp : Space} {i b : Byte} {s t : State} (h : exec (.wrb sp i b) s = .next t) :
    exec (.wrb sp i b) t = .next t := by
  cases h
  cases sp with
  | pbuf =>
    exact congrArg (fun m => Host.Outcome.next (noReply { s with pbuf := m })) (s.pbuf.write_write_same i.toNat b)
  | txbuf => rfl
  | rxbuf =>
    exact congrArg (fun m => Host.Outcome.next (noReply (invalidateFrame { s with rxbuf := m })))
      (s.rxbuf.write_write_same i.toNat b)

end Machine

/-- Settles O17: the reads by `exec_effect`, the writes by `exec_wr_again` and `exec_wrb_again`; the witness against `CMD`
is `CRC.UPD` from reset with `DIN` = 2, which leaves 0x2312 and then another value. -/
theorem readsChangeNothingAndWritesButCmdAreIdempotent : Obligations.ReadsChangeNothingAndWritesButCmdAreIdempotent := by
  refine ⟨?rd, ?rdb, fun r d s t hr h => exec_wr_again hr h, fun sp i b s t h => exec_wrb_again h, ?cmd⟩
  case rd => intro r s t h; cases h; rfl
  case rdb =>
    intro sp i s t h
    cases exec_effect h with
    | rdb => rfl
    | load i bytes hi => cases hi
    | command i c t hi => simp at hi
  case cmd => exact ⟨{ State.reset with din := 0x02#8 }, _, _, rfl, rfl, by decide⟩

namespace Machine

/-! Reads of unwritten bytes (20_memory.md R54). -/

theorem memRead_resetBlock (p : Config) (s : State) (sp : Space) (j : Nat) : memRead sp j (resetBlock p s) = none := by
  cases sp <;> rfl

theorem exec_rdb_unwritten {sp : Space} {i : Byte} {s : State} (h : memRead sp i.toNat s = none) :
    exec (.rdb sp i) s = .fault (.unwrittenByte sp i.toNat) := by
  simp [exec, execRdb, h]

theorem exec_rdb_written {sp : Space} {i b : Byte} {s : State} (h : memRead sp i.toNat s = some b) :
    exec (.rdb sp i) s = .next (replyByte b s) := by
  simp [exec, execRdb, h]

theorem runEncode_unwritten {p : Config} {s : State} {f : Fault} (hmax : s.plen.toNat ≤ maxParams)
    (hf : paramBytes s = .error f) : runEncode p s = .fault f := by
  simp [runEncode, Nat.not_lt.2 hmax, hf]

theorem runCrcBuf_unwritten {p : Config} {s : State} {f : Fault} (hf : rxBytes s = .error f) :
    runCrcBuf p s = .fault f := by
  simp [runCrcBuf, hf]

/-- After a successful `ENCODE` every byte of the encoded frame has been written (41_encode.md R101). -/
theorem encodeOk_written (p : Config) {s : State} {params : List Byte} (hmax : s.plen.toNat ≤ maxParams)
    (hl : params.length = s.plen.toNat) :
    Written (encodeOk p s params).txbuf (encodeOk p s params).txLen.toNat := by
  have hlen : (encodeOk p s params).txLen.toNat =
      (buildFrame p s.syncVal s.addrVal (s.opcode :: params)).length := by
    rw [encodeOk_txLen_toNat p hmax, buildFrame_length, List.length_cons, hl]; omega
  rw [hlen]
  exact (encodeOk_holds_frame p hl).written

end Machine

/-- Settles O16: the marks from what RESET, `WRB` and `ENCODE` leave, and the faults from `readRange_of_unwritten`, as each
command hands on the fault of the range it reads. -/
theorem unwrittenBytesFaultWhenRead : Obligations.UnwrittenBytesFaultWhenRead := by
  refine ⟨?reset, ?wrbPbuf, ?wrbRxbuf, ?encodeMarks, fun sp i s h => exec_rdb_unwritten h, ?encodeFaults, ?receive⟩
  case reset => intro s t h; cases h; exact memRead_resetBlock fcb s
  case wrbPbuf => intro i b s t h; cases h; exact Option.isSome_of_eq_some (s.pbuf.read_write_same i.toNat b)
  case wrbRxbuf => intro i b s t h; cases h; exact Option.isSome_of_eq_some (s.rxbuf.read_write_same i.toNat b)
  case encodeMarks =>
    intro s t hmax h
    rcases exec_encode_next h with ⟨hlong, -⟩ | ⟨-, params, hl, -, rfl⟩
    · omega
    · exact encodeOk_written fcb hmax hl
  case encodeFaults =>
    intro s hmax h
    obtain ⟨f, hf⟩ := readRange_of_unwritten (sp := .pbuf) h
    exact ⟨f, runEncode_unwritten hmax hf⟩
  case receive =>
    intro s h
    obtain ⟨f, hf⟩ := readRange_of_unwritten (sp := .rxbuf) h
    exact ⟨⟨f, runCrcBuf_unwritten hf⟩, fun hmin =>
      ⟨⟨f, decodeThen_unwritten finishDecode hmin hf⟩, f, decodeThen_unwritten finishValidate hmin hf⟩⟩

namespace Machine

/-! Completion (70_reset_and_hazards.md R164). -/

/-- How a meaning may end from `s`: with a next state; with a fault that names an unwritten byte, where the duty of R164
was not kept; or with a refusal, where the instruction is ill formed. -/
inductive Completion (s : State) (wellFormed duty : Prop) : Result → Prop
  | next (t : State) : Completion s wellFormed duty (.next t)
  | unwritten (sp : Space) (j : Nat) (hduty : ¬ duty) (hj : memRead sp j s = none) :
      Completion s wellFormed duty (.fault (.unwrittenByte sp j))
  | illFormed (r : Refusal) (h : ¬ wellFormed) : Completion s wellFormed duty (.refused r)

section Completion

variable {s : State} {wellFormed duty : Prop} {o : Result}

theorem Completion.of_eq_next {t : State} (h : o = .next t) : Completion s wellFormed duty o := h ▸ .next t

theorem Completion.exists_next (h : Completion s wellFormed duty o) (hw : wellFormed) (hd : duty) :
    ∃ t, o = .next t := by
  cases h with
  | next t => exact ⟨t, rfl⟩
  | unwritten sp j hduty hj => exact absurd hd hduty
  | illFormed r h => exact absurd hw h

theorem Completion.names_unwritten {f : Fault} (h : Completion s wellFormed duty (.fault f)) :
    ¬ duty ∧ ∃ sp j, f = .unwrittenByte sp j ∧ memRead sp j s = none := by
  cases h with
  | unwritten sp j hduty hj => exact ⟨hduty, sp, j, rfl, hj⟩

/-- A command that hands on the fault of a range it reads, where its duty is to read that range written. -/
theorem Completion.of_readRange_error {sp : Space} {n : Nat} {f : Fault}
    (hf : readRange sp (bufferOf sp s) 0 n = .error f) (hduty : duty → Written (bufferOf sp s) n) :
    Completion s wellFormed duty (.fault f) := by
  obtain ⟨j, -, hj, rfl, hnone⟩ := readRange_error hf
  refine .unwritten sp j (fun hd => ?_) hnone
  have hsome := hduty hd j (by omega)
  simp [hnone] at hsome

/-- `DECODE` and `VALIDATE` complete on a buffer that is too short or written. -/
theorem decodeThen_completion (finish : List Byte → State → State) :
    Completion s wellFormed (fcb.minFrame ≤ s.rxLen.toNat → Written s.rxbuf s.rxLen.toNat)
      (decodeThen fcb finish s) := by
  rcases decodeThen_cases fcb finish s with
    ⟨-, e⟩ | ⟨hmin, f, hf, e⟩ | ⟨-, B, -, -, ⟨_, -, -, -, e⟩ | ⟨F, -, e⟩⟩
  · exact .of_eq_next e
  · rw [e]; exact .of_readRange_error (sp := .rxbuf) hf fun hd => hd hmin
  · exact .of_eq_next e
  · exact .of_eq_next e

/-- A command completes where it reads written bytes only. -/
theorem exec_commandInstr_completion (c : Command) (s : State) :
    Completion s wellFormed (commandReadsWritten c s) (exec (commandInstr c) s) := by
  cases c with
  | crcClr => exact .next _
  | crcUpd => exact .next _
  | crcBuf =>
    show Completion _ _ _ (runCrcBuf fcb s)
    rcases runCrcBuf_cases fcb s with ⟨f, hf, e⟩ | ⟨B, -, -, e⟩
    · rw [e]; exact .of_readRange_error (sp := .rxbuf) hf id
    · exact .of_eq_next e
  | encode =>
    show Completion _ _ _ (runEncode fcb s)
    rcases runEncode_cases fcb s with ⟨-, e⟩ | ⟨hmax, f, hf, e⟩ | ⟨-, params, -, -, e⟩
    · exact .of_eq_next e
    · rw [e]; exact .of_readRange_error (sp := .pbuf) hf fun hd => hd hmax
    · exact .of_eq_next e
  | decode => exact decodeThen_completion finishDecode
  | validate => exact decodeThen_completion finishValidate

/-- A `WR` to `CMD` of a command's code is that command (43_host_access.md R134). -/
theorem exec_wr_cmd_of_some {d : Half} {c : Command} (hc : commandOfCode (lowByte d) = some c) (s : State) :
    exec (.wr .cmd d) s = exec (commandInstr c) s := by
  show runCommand fcb (lowByte d) s = _
  rw [runCommand, hc]
  cases c <;> rfl

/-- A `WR` to `CMD` of a code that names no command is an illegal command (60_exceptions.md R146). -/
theorem exec_wr_cmd_of_none {d : Half} (hc : commandOfCode (lowByte d) = none) (s : State) :
    exec (.wr .cmd d) s = .next (raise .illegalCommand s) := by
  show runCommand fcb (lowByte d) s = _
  rw [runCommand, hc]
  rfl

theorem exec_wr_completion (r : Reg) (d : Half) (s : State) :
    Completion s wellFormed (readsWritten (.wr r d) s) (exec (.wr r d) s) := by
  by_cases hr : r = .cmd
  · subst hr
    cases hc : commandOfCode (lowByte d) with
    | none => exact .of_eq_next (exec_wr_cmd_of_none hc s)
    | some c =>
      have hduty : readsWritten (.wr .cmd d) s ↔ commandReadsWritten c s := by simp [readsWritten, hc]
      rw [exec_wr_cmd_of_some hc, hduty]
      exact exec_commandInstr_completion c s
  · rcases regWrite_cases fcb hr d s with ⟨-, e⟩ | ⟨-, e⟩ | ⟨-, e⟩ | ⟨-, e⟩ | ⟨-, e⟩ | ⟨-, e⟩ | ⟨-, e⟩ <;>
      exact .of_eq_next e

/-- A link frame that fits in `RXBUF` completes. -/
theorem loadBuffer_completion {bytes : List Byte} (hfit : wellFormed → bytes.length ≤ 255) :
    Completion s wellFormed duty (loadBuffer bytes s) := by
  rcases loadBuffer_cases bytes s with ⟨-, e⟩ | ⟨hlong, e⟩
  · exact .of_eq_next e
  · rw [e]; exact .illFormed _ fun hw => absurd (hfit hw) (Nat.not_le.2 hlong)

end Completion

/-- Every way an instruction can end. -/
theorem exec_completion (i : Instr) (s : State) :
    Completion s (i.wellFormed = true) (readsWritten i s) (exec i s) := by
  cases i with
  | rd r => exact .next _
  | wr r d => exact exec_wr_completion r d s
  | rdb sp a =>
    cases hb : memRead sp a.toNat s with
    | none => rw [exec_rdb_unwritten hb]; exact .unwritten sp a.toNat (by simp [readsWritten, hb]) hb
    | some b => exact .of_eq_next (exec_rdb_written hb)
  | wrb sp a b => exact .next _
  | crcClr => exact exec_commandInstr_completion .crcClr s
  | crcUpd => exact exec_commandInstr_completion .crcUpd s
  | crcBuf => exact exec_commandInstr_completion .crcBuf s
  | encode => exact exec_commandInstr_completion .encode s
  | decode => exact exec_commandInstr_completion .decode s
  | validate => exact exec_commandInstr_completion .validate s
  | reservedCommand v => exact .next _
  | reset => exact .next _
  | frame x y data =>
    refine loadBuffer_completion (bytes := buildFrame fcb x y data) fun hw => ?_
    simp only [Instr.wellFormed, Instr.wellFormedWith, Bool.and_eq_true, decide_eq_true_eq] at hw
    obtain ⟨⟨-, hmax⟩, -⟩ := hw
    rw [maxData_eq] at hmax
    rw [buildFrame_length]
    omega
  | frameAck x y => exact loadBuffer_completion (bytes := buildFrame fcb x y [ackByte]) fun _ => by simp
  | frameNak x y => exact loadBuffer_completion (bytes := buildFrame fcb x y [nakByte]) fun _ => by simp

end Machine

/-- Settles O7, from `exec_completion`. -/
theorem completesUnlessItReadsAnUnwrittenByte : Obligations.CompletesUnlessItReadsAnUnwrittenByte :=
  ⟨fun i s hwf hduty => (exec_completion i s).exists_next hwf hduty,
    fun i s _ h => (h ▸ exec_completion i s).names_unwritten⟩

end Sys2Proof
end

section
/-! PROOFS. The encodings of 30_encoding.md: what the decoder accepts is what the encoder writes, for words and for link frames, which words are refused, and a link frame as the host's LDRX of its bytes. -/

namespace Sys2Proof

open Sys2Proof.Machine

/-- Settles O2: this block is `everyParameterSetDecodesWhatItEncodes` at the parameters `fcb`. -/
theorem decodeOfEncodeIsIdentity : Obligations.DecodeOfEncodeIsIdentity :=
  fun i hi => everyParameterSetDecodesWhatItEncodes fcb i rfl hi

/-- An input that the encoder writes for a well-formed instruction has that meaning. -/
theorem decode_of_encode_eq {i : Instr} {inp : Input} (hi : i.wellFormed = true) (h : encode i = inp) :
    decode inp = .ok i :=
  h ▸ decodeOfEncodeIsIdentity i hi

/-- Settles O1, from O2: each word and frame is the encoder's input for its instruction. -/
theorem specEncodingsDecode : Obligations.SpecEncodingsDecode := by
  unfold Obligations.SpecEncodingsDecode
  and_intros <;> exact decode_of_encode_eq rfl (by decide +kernel)

/-- Settles O54: `ErrLegal` is part of the legality of every reachable state. -/
theorem reservedErrValuesAreNeverProduced : Obligations.ReservedErrValuesAreNeverProduced := by
  intro s h
  obtain ⟨-, herr, -, -⟩ := h.legal
  exact herr

/-! What each kind of word is accepted for (30_encoding.md R66 to R71). -/

section Word

variable {w : Word} {i : Instr}

theorem decodeRd_ok_iff : decodeRd w = .ok i ↔
    wordSpace w = 0#2 ∧ wordD w = 0#16 ∧ ∃ r, regOfNum (wordA w) = some r ∧ i = .rd r := by
  unfold decodeRd
  by_cases hs : wordSpace w = 0#2
  · by_cases hd : wordD w = 0#16
    · cases hr : regOfNum (wordA w) <;> simp [hs, hd, eq_comm (a := i)]
    · simp [hs, hd]
  · simp [hs]

/-- The instruction of a `WR` word with register `r` and data `d` (30_encoding.md R69; log 7). -/
def wrInstr (r : Reg) (d : Half) : Instr := if r = .cmd then decodeCommand (lowByte d) else .wr r d

theorem decodeWr_ok_iff : decodeWr w = .ok i ↔
    wordSpace w = 0#2 ∧ ∃ r, regOfNum (wordA w) = some r ∧ (regWide r = true ∨ highByte (wordD w) = 0#8) ∧
      i = wrInstr r (wordD w) := by
  unfold decodeWr
  by_cases hs : wordSpace w = 0#2
  · cases hr : regOfNum (wordA w) with
    | none => simp [hs]
    | some r =>
      by_cases hfit : regWide r = true ∨ highByte (wordD w) = 0#8
      · have hcut : ¬ (regWide r = false ∧ highByte (wordD w) ≠ 0#8) := by
          rcases hfit with h | h <;> simp [h]
        have hrow : (if r = .cmd then Except.ok (decodeCommand (lowByte (wordD w))) else .ok (.wr r (wordD w))) =
            (.ok (wrInstr r (wordD w)) : Except Malformed Instr) := by
          rw [wrInstr]; split <;> rfl
        simp [hs, hfit, hcut, hrow, eq_comm (a := i)]
      · have hcut : regWide r = false ∧ highByte (wordD w) ≠ 0#8 := by simpa using hfit
        simp [hs, hcut]
  · simp [hs]

theorem decodeRdb_ok_iff : decodeRdb w = .ok i ↔
    ∃ sp, spaceOfNum (wordSpace w) = some sp ∧ wordD w = 0#16 ∧ i = .rdb sp (wordA w) := by
  unfold decodeRdb
  cases hs : spaceOfNum (wordSpace w) with
  | none => simp
  | some sp => by_cases hd : wordD w = 0#16 <;> simp [hd, eq_comm (a := i)]

theorem decodeWrb_ok_iff : decodeWrb w = .ok i ↔
    ∃ sp, spaceOfNum (wordSpace w) = some sp ∧ highByte (wordD w) = 0#8 ∧
      i = .wrb sp (wordA w) (lowByte (wordD w)) := by
  unfold decodeWrb
  cases hs : spaceOfNum (wordSpace w) with
  | none => simp
  | some sp => by_cases hd : highByte (wordD w) = 0#8 <;> simp [hd, eq_comm (a := i)]

/-- The decoder reads a word by its kind, once its zero field is 0. -/
theorem decodeWord_cases (w : Word) :
    (wordZero w ≠ 0#4 ∧ decodeWord w = .error .zeroField) ∨
    (wordZero w = 0#4 ∧
      ((wordKind w = 0#2 ∧ decodeWord w = decodeRd w) ∨ (wordKind w = 1#2 ∧ decodeWord w = decodeWr w) ∨
        (wordKind w = 2#2 ∧ decodeWord w = decodeRdb w) ∨ (wordKind w = 3#2 ∧ decodeWord w = decodeWrb w))) := by
  have hkinds : ∀ k : BitVec 2, k = 0#2 ∨ k = 1#2 ∨ k = 2#2 ∨ k = 3#2 := by decide
  by_cases hz : wordZero w = 0#4
  · rcases hkinds (wordKind w) with hk | hk | hk | hk <;> simp [decodeWord, hz, hk]
  · simp [decodeWord, hz]

/-! The encoder's word for what each kind of word is accepted for. -/

theorem setWidth_lowByte {d : Half} (h : highByte d = 0#8) : (lowByte d).setWidth 16 = d := by
  rw [setWidth_byte, ← h, highByte_append_lowByte]

theorem decodeCommand_wellFormed (v : Byte) : (decodeCommand v).wellFormed = true := by
  cases hv : commandOfCode v with
  | none => rw [decodeCommand_of_none hv]; exact beq_iff_eq.2 hv
  | some c =>
    obtain rfl := commandCode_of_commandOfCode hv
    cases c <;> rfl

theorem encode_decodeCommand (v : Byte) :
    encode (decodeCommand v) = .word (mkWord 1#2 0#2 (regNum .cmd) (v.setWidth 16)) := by
  cases hv : commandOfCode v with
  | none => rw [decodeCommand_of_none hv]; rfl
  | some c =>
    obtain rfl := commandCode_of_commandOfCode hv
    cases c <;> rfl

theorem wrInstr_wellFormed {r : Reg} {d : Half} (hd : regWide r = true ∨ highByte d = 0#8) :
    (wrInstr r d).wellFormed = true := by
  by_cases hr : r = .cmd
  · rw [wrInstr, if_pos hr]; exact decodeCommand_wellFormed _
  · simp [wrInstr, hr, Instr.wellFormed, Instr.wellFormedWith, hd]

theorem encode_wrInstr {r : Reg} {d : Half} (hd : regWide r = true ∨ highByte d = 0#8) :
    encode (wrInstr r d) = .word (mkWord 1#2 0#2 (regNum r) d) := by
  by_cases hr : r = .cmd
  · subst hr
    have hhigh : highByte d = 0#8 := hd.resolve_left nofun
    rw [wrInstr, if_pos rfl, encode_decodeCommand, setWidth_lowByte hhigh]
  · rw [wrInstr, if_neg hr]; rfl

/-- A word that decodes is the encoder's word for a well-formed instruction. -/
theorem encode_of_decodeWord (h : decodeWord w = .ok i) : i.wellFormed = true ∧ encode i = .word w := by
  rcases decodeWord_cases w with ⟨-, e⟩ | ⟨hz, ⟨hk, e⟩ | ⟨hk, e⟩ | ⟨hk, e⟩ | ⟨hk, e⟩⟩ <;> rw [e] at h
  · cases h
  · obtain ⟨hs, hd, r, hr, rfl⟩ := decodeRd_ok_iff.1 h
    refine ⟨rfl, ?_⟩
    rw [← mkWord_fields hz, hk, hs, hd, regNum_of_regOfNum hr]
    rfl
  · obtain ⟨hs, r, hr, hd, rfl⟩ := decodeWr_ok_iff.1 h
    refine ⟨wrInstr_wellFormed hd, ?_⟩
    rw [encode_wrInstr hd, ← hk, ← hs, ← regNum_of_regOfNum hr, mkWord_fields hz]
  · obtain ⟨sp, hs, hd, rfl⟩ := decodeRdb_ok_iff.1 h
    refine ⟨rfl, congrArg Input.word ?_⟩
    rw [← hk, ← spaceNum_of_spaceOfNum hs, ← hd, mkWord_fields hz]
  · obtain ⟨sp, hs, hd, rfl⟩ := decodeWrb_ok_iff.1 h
    refine ⟨rfl, congrArg Input.word ?_⟩
    rw [← hk, ← spaceNum_of_spaceOfNum hs, setWidth_lowByte hd, mkWord_fields hz]

end Word

namespace Machine

/-! Link bytes by their layout (30_encoding.md R60 to R62). -/

/-- At least five bytes are a header of three, a payload and a trailer of two. -/
theorem exists_layout {B : List Byte} (h : 5 ≤ B.length) :
    ∃ x y l data a b, B = x :: y :: l :: (data ++ [a, b]) := by
  match B, h with
  | x :: y :: l :: rest, h =>
    simp only [List.length_cons] at h
    obtain ⟨a, b, hab⟩ := List.length_eq_two.1
      (show (rest.drop (rest.length - 2)).length = 2 by rw [List.length_drop]; omega)
    exact ⟨x, y, l, rest.take (rest.length - 2), a, b, by rw [← hab, List.take_append_drop]⟩

/-- What the three checks of 42_decode_validate.md R110 say of bytes in the layout of a frame. -/
theorem decodeFrame_layout_ok_iff {p : Config} {x y l a b : Byte} {data : List Byte} {F : Frame} :
    decodeFrame p (x :: y :: l :: (data ++ [a, b])) = .ok F ↔
      p.minFrame ≤ data.length + 5 ∧ crc16 p (x :: y :: l :: data) = trailerNumber p a b ∧
        l.toNat = data.length + 5 ∧
        F = { sync := x, address := y, length := l, data := data, crc16 := trailerNumber p a b } := by
  rw [decodeFrame_ok_iff]
  simp

/-- Writing the trailer that two bytes carry gives the two bytes, in either byte order. -/
theorem trailerBytes_trailerNumber (p : Config) (a b : Byte) : trailerBytes p (trailerNumber p a b) = [a, b] := by
  unfold trailerBytes trailerNumber
  split <;> simp

/-- Bytes that decode to a Frame are the frame with its header and payload. -/
theorem buildFrame_of_decodeFrame {p : Config} (hp : 5 ≤ p.minFrame) {B : List Byte} {F : Frame}
    (h : decodeFrame p B = .ok F) :
    buildFrame p F.sync F.address F.data = B ∧ p.minFrame ≤ F.data.length + 5 ∧ F.data.length ≤ maxData := by
  have hB : 5 ≤ B.length := by
    obtain ⟨hmin, -⟩ := (decodeFrame_ok_iff p B F).1 h
    omega
  obtain ⟨x, y, l, data, a, b, rfl⟩ := exists_layout hB
  obtain ⟨hmin, hcrc, hlen, rfl⟩ := decodeFrame_layout_ok_iff.1 h
  have hbody : frameBody x y data = x :: y :: l :: data := by
    have hl : BitVec.ofNat 8 (hdrLen + data.length + trlLen) = l := by
      rw [show hdrLen + data.length + trlLen = l.toNat by simp only [hdrLen, trlLen]; omega, BitVec.ofNat_toNat,
        BitVec.setWidth_eq]
    rw [frameBody, hl]
  refine ⟨?_, hmin, ?_⟩
  · rw [buildFrame, hbody, hcrc, trailerBytes_trailerNumber]; rfl
  · have hlt := l.isLt
    show data.length ≤ maxData
    rw [maxData_eq]; omega

end Machine

/-- The row of a frame's payload class is well formed for a payload of an admitted size. -/
theorem linkRow_wellFormed (x y : Byte) {data : List Byte} (hmin : fcb.minFrame ≤ data.length + 5)
    (hmax : data.length ≤ maxData) : (linkRow x y data (classify data)).wellFormed = true := by
  cases hc : classify data with
  | ack => rfl
  | nak => rfl
  | data =>
    have hsize : 6 ≤ hdrLen + data.length + trlLen := by
      rw [fcb_minFrame] at hmin
      simp only [hdrLen, trlLen]; omega
    simp [linkRow, Instr.wellFormed, Instr.wellFormedWith, hc, hsize, hmax]

theorem encode_linkRow (x y : Byte) (data : List Byte) :
    encode (linkRow x y data (classify data)) = .frame (buildFrame fcb x y data) := by
  rcases classify_cases data with ⟨rfl, hc⟩ | ⟨rfl, hc⟩ | ⟨-, -, hc⟩ <;> rw [hc] <;> rfl

theorem decodeLink_ok_iff {p : Config} {bytes : List Byte} {i : Instr} :
    decodeLink p bytes = .ok i ↔
      ∃ F, decodeFrame p bytes = .ok F ∧ i = linkRow F.sync F.address F.data (classify F.data) := by
  unfold decodeLink
  cases hd : decodeFrame p bytes with
  | error e => simp
  | ok F => cases hc : classify F.data <;> simp [hc, linkRow, eq_comm]

/-- Link bytes that decode are the encoder's bytes for a well-formed instruction. -/
theorem encode_of_decodeLink {bytes : List Byte} {i : Instr} (h : decodeLink fcb bytes = .ok i) :
    i.wellFormed = true ∧ encode i = .frame bytes := by
  obtain ⟨F, hF, rfl⟩ := decodeLink_ok_iff.1 h
  obtain ⟨hbytes, hmin, hmax⟩ := buildFrame_of_decodeFrame (by decide) hF
  exact ⟨linkRow_wellFormed F.sync F.address hmin hmax, by rw [encode_linkRow, hbytes]⟩

/-- Settles O3, by cases on the input: a word by its fields, link bytes by their layout. -/
theorem encodeOfDecodeIsIdentity : Obligations.EncodeOfDecodeIsIdentity := by
  intro inp i h
  cases inp with
  | word w => exact encode_of_decodeWord h
  | reset => cases h; exact ⟨rfl, rfl⟩
  | frame bytes => exact encode_of_decodeLink h

/-! Which words are refused (30_encoding.md R68). -/

/-- A result is an error exactly when it is not a value. -/
theorem exists_error_iff {ε α : Type} (o : Except ε α) : (∃ e, o = .error e) ↔ ¬ ∃ a, o = .ok a := by
  cases o <;> simp

theorem regOfNum_isSome_iff (a : Byte) : (∃ r, regOfNum a = some r) ↔ a.toNat ≤ 0x0E := by
  rw [← Option.ne_none_iff_exists', Ne, regOfNum_eq_none_iff]
  omega

theorem spaceOfNum_isSome_iff (n : BitVec 2) : (∃ sp, spaceOfNum n = some sp) ↔ n ≠ 3#2 := by
  rw [← Option.ne_none_iff_exists', Ne, spaceOfNum_eq_none_iff]

/-- The numbers of the 16-bit registers (20_memory.md R41). -/
theorem regWide_iff_of_regOfNum {a : Byte} {r : Reg} (h : regOfNum a = some r) :
    regWide r = true ↔ a = 0x03#8 ∨ a = 0x0D#8 := by
  rw [regNum_of_regOfNum h]
  cases r <;> decide

theorem highByte_wordD (w : Word) : highByte (wordD w) = w.extractLsb' 8 8 := by
  refine BitVec.eq_of_getLsbD_eq fun j hj => ?_
  simp [highByte, wordD, hj]

section Word

variable {w : Word}

theorem decodeRd_accepts_iff : (∃ i, decodeRd w = .ok i) ↔
    wordSpace w = 0#2 ∧ wordD w = 0#16 ∧ (wordA w).toNat ≤ 0x0E := by
  rw [← regOfNum_isSome_iff]
  simp only [decodeRd_ok_iff]
  exact ⟨fun ⟨_, hs, hd, r, hr, _⟩ => ⟨hs, hd, r, hr⟩, fun ⟨hs, hd, r, hr⟩ => ⟨_, hs, hd, r, hr, rfl⟩⟩

theorem decodeWr_accepts_iff : (∃ i, decodeWr w = .ok i) ↔
    wordSpace w = 0#2 ∧ (wordA w).toNat ≤ 0x0E ∧
      (wordA w = 0x03#8 ∨ wordA w = 0x0D#8 ∨ w.extractLsb' 8 8 = 0#8) := by
  rw [← regOfNum_isSome_iff, ← highByte_wordD]
  simp only [decodeWr_ok_iff]
  constructor
  · rintro ⟨_, hs, r, hr, hd, -⟩
    rw [regWide_iff_of_regOfNum hr, or_assoc] at hd
    exact ⟨hs, ⟨r, hr⟩, hd⟩
  · rintro ⟨hs, ⟨r, hr⟩, hd⟩
    rw [← or_assoc, ← regWide_iff_of_regOfNum hr] at hd
    exact ⟨_, hs, r, hr, hd, rfl⟩

theorem decodeRdb_accepts_iff : (∃ i, decodeRdb w = .ok i) ↔ wordSpace w ≠ 3#2 ∧ wordD w = 0#16 := by
  rw [← spaceOfNum_isSome_iff]
  simp only [decodeRdb_ok_iff]
  exact ⟨fun ⟨_, sp, hs, hd, _⟩ => ⟨⟨sp, hs⟩, hd⟩, fun ⟨⟨sp, hs⟩, hd⟩ => ⟨_, sp, hs, hd, rfl⟩⟩

theorem decodeWrb_accepts_iff : (∃ i, decodeWrb w = .ok i) ↔ wordSpace w ≠ 3#2 ∧ w.extractLsb' 8 8 = 0#8 := by
  rw [← spaceOfNum_isSome_iff, ← highByte_wordD]
  simp only [decodeWrb_ok_iff]
  exact ⟨fun ⟨_, sp, hs, hd, _⟩ => ⟨⟨sp, hs⟩, hd⟩, fun ⟨⟨sp, hs⟩, hd⟩ => ⟨_, sp, hs, hd, rfl⟩⟩

end Word

/-- A word is malformed: the seven clauses of 30_encoding.md R68, by the fields of R66. -/
def MalformedWord (w : Word) : Prop :=
  wordZero w ≠ 0#4 ∨
  ((wordKind w = 0#2 ∨ wordKind w = 1#2) ∧ wordSpace w ≠ 0#2) ∨
  ((wordKind w = 2#2 ∨ wordKind w = 3#2) ∧ wordSpace w = 3#2) ∨
  ((wordKind w = 0#2 ∨ wordKind w = 2#2) ∧ wordD w ≠ 0#16) ∨
  (wordKind w = 3#2 ∧ w.extractLsb' 8 8 ≠ 0#8) ∨
  (wordKind w = 1#2 ∧ (wordA w).toNat ≤ 0x0E ∧ wordA w ≠ 0x03#8 ∧ wordA w ≠ 0x0D#8 ∧ w.extractLsb' 8 8 ≠ 0#8) ∨
  ((wordKind w = 0#2 ∨ wordKind w = 1#2) ∧ 0x0F ≤ (wordA w).toNat)

/-- The decoder rejects exactly the malformed words: each kind is touched by its own clauses only. -/
theorem decodeWord_error_iff (w : Word) : (∃ why, decodeWord w = .error why) ↔ MalformedWord w := by
  rw [exists_error_iff, MalformedWord]
  rcases decodeWord_cases w with ⟨hz, e⟩ | ⟨hz, ⟨hk, e⟩ | ⟨hk, e⟩ | ⟨hk, e⟩ | ⟨hk, e⟩⟩ <;> rw [e]
  · simp [hz]
  · rw [decodeRd_accepts_iff]; grind
  · rw [decodeWr_accepts_iff]; grind
  · rw [decodeRdb_accepts_iff]; grind
  · rw [decodeWrb_accepts_iff]; grind

namespace Machine

/-- A well-formed instruction is never refused. -/
theorem exec_ne_refused {i : Instr} (hi : i.wellFormed = true) (s : State) (r : Refusal) : exec i s ≠ .refused r := by
  intro h
  have hend := exec_completion i s
  rw [h] at hend
  cases hend with
  | illFormed _ hill => exact hill hi

/-- A step refuses an input as malformed exactly when the decoder rejects it, since what it accepts is well formed. -/
theorem step_malformed_iff {s : State} {inp : Input} {rest : List Input} (h : s.inputs = inp :: rest) :
    (∃ why, step s = .refused (.malformed why)) ↔ ∃ why, Sys2Proof.decode inp = .error why := by
  rcases step_cases s with ⟨hnil, -⟩ | ⟨inp', rest', why, hin, hd, e⟩ | ⟨inp', rest', i, hin, hd, e⟩
  · simp [h] at hnil
  · obtain ⟨rfl, -⟩ := List.cons.inj (h.symm.trans hin)
    exact iff_of_true ⟨why, e⟩ ⟨why, hd⟩
  · obtain ⟨rfl, -⟩ := List.cons.inj (h.symm.trans hin)
    obtain ⟨hwf, -⟩ := encodeOfDecodeIsIdentity inp i hd
    refine iff_of_false (fun ⟨why, hstep⟩ => ?_) (by simp [hd])
    exact exec_ne_refused hwf _ _ (e.symm.trans hstep)

end Machine

/-- Settles O4: the step refuses what the decoder rejects, which are the malformed words. -/
theorem malformedWordsAreExactlyRefused : Obligations.MalformedWordsAreExactlyRefused :=
  fun _ w _ h => (step_malformed_iff h).trans (decodeWord_error_iff w)

namespace Machine

/-! A link frame and the host's LDRX of its bytes (30_encoding.md R74, 70_reset_and_hazards.md R169). -/

theorem lowByte_ofNat (n : Nat) : lowByte (BitVec.ofNat 16 n) = BitVec.ofNat 8 n := by
  refine BitVec.eq_of_toNat_eq ?_
  simp [lowByte]

theorem runAll_cons_of_next {i : Instr} {s t : State} (h : exec i s = .next t) (rest : List Instr) :
    runAll (i :: rest) s = runAll rest t := by
  rw [runAll, h]

/-- The writes of LDRX from index `k` on: each one withdraws the decode result again, so together they leave the bytes in
`RXBUF` and what the last write leaves. -/
theorem runAll_writesFrom_rxbuf (bytes : List Byte) (d : Half) {k : Nat} (hfit : k + bytes.length ≤ bufSize)
    (s : State) :
    runAll (writesFrom .rxbuf k bytes ++ [.wr .rxLen d]) s =
      .next (noReply (invalidateFrame { s with rxbuf := s.rxbuf.writeBytes k bytes, rxLen := lowByte d })) := by
  induction bytes generalizing k s with
  | nil => rfl
  | cons b bytes ih =>
    rw [List.length_cons, bufSize] at hfit
    have hk : (BitVec.ofNat 8 k).toNat = k := by
      rw [BitVec.toNat_ofNat, Nat.mod_eq_of_lt (by omega)]
    have hfirst : exec (.wrb .rxbuf (BitVec.ofNat 8 k) b) s =
        .next (noReply (invalidateFrame { s with rxbuf := s.rxbuf.write k b })) := by
      show Host.Outcome.next (noReply (memWrite .rxbuf _ b s)) = _
      rw [memWrite, hk]
    exact (runAll_cons_of_next hfirst _).trans (ih (by rw [bufSize]; omega) _)

/-- LDRX of at most 255 bytes leaves what the load of them in one step leaves. -/
theorem runAll_ldrx {bytes : List Byte} (hl : bytes.length ≤ 255) (s : State) :
    runAll (expand (.ldrx bytes)) s = loadBuffer bytes s := by
  rcases loadBuffer_cases bytes s with ⟨-, e⟩ | ⟨hlong, -⟩
  · rw [e, ← lowByte_ofNat]
    exact runAll_writesFrom_rxbuf bytes _ (by rw [bufSize]; omega) s
  · omega

/-- An instruction whose input is link bytes loads them (log 6). -/
theorem exec_of_encode_frame {i : Instr} {bytes : List Byte} (h : Sys2Proof.encode i = .frame bytes) (s : State) :
    exec i s = loadBuffer bytes s := by
  cases i <;> cases h <;> rfl

/-- A well-formed link frame has at most 255 bytes (30_encoding.md R61), as it is not refused. -/
theorem length_le_of_encode_frame {i : Instr} {bytes : List Byte} (hi : i.wellFormed = true)
    (h : Sys2Proof.encode i = .frame bytes) : bytes.length ≤ 255 := by
  rcases loadBuffer_cases bytes State.reset with ⟨hl, -⟩ | ⟨-, e⟩
  · exact hl
  · exact absurd ((exec_of_encode_frame h _).trans e) (exec_ne_refused hi _ _)

end Machine

/-- Settles O50: the frame and LDRX of its bytes are both the load of the bytes, by `exec_of_encode_frame` and
`runAll_ldrx`. -/
theorem linkFrameEqualsLdrxOfItsBytes : Obligations.LinkFrameEqualsLdrxOfItsBytes := by
  intro i bytes s hi h
  have hl : bytes.length ≤ 255 := length_le_of_encode_frame hi h
  have hload : loadBuffer bytes s = .next (noReply (invalidateFrame
      { s with rxbuf := s.rxbuf.writeBytes 0 bytes, rxLen := BitVec.ofNat 8 bytes.length })) := if_pos hl
  refine ⟨s.rxbuf.writeBytes 0 bytes, _, (exec_of_encode_frame h s).trans hload, (runAll_ldrx hl s).trans hload, rfl, hl,
    fun j => ?_⟩
  simp [Memory.read_writeBytes]

end Sys2Proof
end

section
/-! PROOFS. The CRC unit of 40_crc.md: the arithmetic of `crc_step` and `crc16` for every parameter set, what the block's generator adds to it, and the three commands CRC.CLR, CRC.UPD and CRC.BUF. -/

namespace Sys2Proof

open Sys2Proof.Machine

namespace Machine

/-! One iteration, and `n` of them. -/

section Shifts

variable (p : Config)

theorem crcShifts_eq_iterate (n : Nat) (x : Half) : crcShifts p n x = (crcShift p)^[n] x := by
  induction n generalizing x with
  | zero => rfl
  | succ n ih => exact ih _

theorem crcShift_of_even {x : Half} (h : x.getLsbD 0 = false) : crcShift p x = x >>> 1 :=
  if_neg (by rw [h]; decide)

theorem crcShift_of_odd {x : Half} (h : x.getLsbD 0 = true) : crcShift p x = (x >>> 1) ^^^ p.crcPolyR :=
  if_pos h

/-- An iteration is linear: the generator enters once for each operand whose bit 0 is 1, and twice is not at all. -/
theorem crcShift_xor (x y : Half) : crcShift p (x ^^^ y) = crcShift p x ^^^ crcShift p y := by
  have hbit : (x ^^^ y).getLsbD 0 = (x.getLsbD 0 ^^ y.getLsbD 0) := BitVec.getLsbD_xor
  have hshift : (x ^^^ y) >>> 1 = (x >>> 1) ^^^ (y >>> 1) := BitVec.ushiftRight_xor_distrib x y 1
  cases hx : x.getLsbD 0 <;> cases hy : y.getLsbD 0 <;> rw [hx, hy] at hbit
  · rw [crcShift_of_even p hx, crcShift_of_even p hy, crcShift_of_even p hbit, hshift]
  · rw [crcShift_of_even p hx, crcShift_of_odd p hy, crcShift_of_odd p hbit, hshift, BitVec.xor_assoc]
  · rw [crcShift_of_odd p hx, crcShift_of_even p hy, crcShift_of_odd p hbit, hshift]
    ac_rfl
  · have hcancel : ((x >>> 1) ^^^ p.crcPolyR) ^^^ ((y >>> 1) ^^^ p.crcPolyR) =
        (x >>> 1) ^^^ (y >>> 1) ^^^ (p.crcPolyR ^^^ p.crcPolyR) := by ac_rfl
    rw [crcShift_of_odd p hx, crcShift_of_odd p hy, crcShift_of_even p hbit, hshift, hcancel, BitVec.xor_self,
      BitVec.xor_zero]

theorem crcShifts_xor (n : Nat) (x y : Half) : crcShifts p n (x ^^^ y) = crcShifts p n x ^^^ crcShifts p n y := by
  induction n generalizing x y with
  | zero => rfl
  | succ n ih => rw [crcShifts, crcShift_xor]; exact ih _ _

/-- Iterations that meet zero bits only are a shift. -/
theorem crcShifts_of_low_bits_zero {n : Nat} {x : Half} (h : ∀ i, i < n → x.getLsbD i = false) :
    crcShifts p n x = x >>> n := by
  induction n generalizing x with
  | zero => rfl
  | succ n ih =>
    have hrest : ∀ i, i < n → (x >>> 1).getLsbD i = false := fun i hi => by
      rw [BitVec.getLsbD_ushiftRight]; exact h (1 + i) (by omega)
    rw [crcShifts, crcShift_of_even p (h 0 (by omega)), ih hrest, ← BitVec.shiftRight_add, Nat.add_comm]

end Shifts

/-! `crc_step` by the two bytes of the accumulator (40_crc.md R86, R88). -/

/-- `v >> 8` is the high byte, zero-extended. -/
theorem ushiftRight_eight (v : Half) : v >>> 8 = (highByte v).setWidth 16 := by
  refine BitVec.eq_of_getLsbD_eq fun i hi => ?_
  rw [BitVec.getLsbD_ushiftRight, BitVec.getLsbD_setWidth, highByte, BitVec.getLsbD_extractLsb']
  by_cases h : i < 8
  · simp [h, hi]
  · simp [h, BitVec.getLsbD_of_ge v (8 + i) (by omega)]

section Step

variable (p : Config)

@[simp] theorem crcShifts_zero (n : Nat) : crcShifts p n 0#16 = 0#16 := by
  rw [crcShifts_of_low_bits_zero p (fun i _ => BitVec.getLsbD_zero), BitVec.zero_ushiftRight]

/-- The eight iterations move a high byte over a zero low byte down. -/
theorem crcShifts_eight_high (h : Byte) : crcShifts p 8 (h ++ 0#8 : Half) = h.setWidth 16 := by
  have hlow : ∀ i, i < 8 → (h ++ 0#8 : Half).getLsbD i = false := fun i hi => by
    rw [getLsbD_append_byte, if_pos hi, BitVec.getLsbD_zero]
  rw [crcShifts_of_low_bits_zero p hlow, ushiftRight_eight, highByte_append]

/-- The two bytes of the accumulator with the byte to fold, apart. -/
theorem xor_byte_eq_high_xor_low (c : Half) (b : Byte) :
    c ^^^ b.setWidth 16 = (highByte c ++ 0#8 : Half) ^^^ (lowByte c ^^^ b).setWidth 16 := by
  rw [setWidth_byte, setWidth_byte, BitVec.xor_append, BitVec.xor_zero, BitVec.zero_xor]
  nth_rw 1 [← highByte_append_lowByte c]
  rw [BitVec.xor_append, BitVec.xor_zero]

/-- The table form, for every parameter set: the high byte is only shifted, and the table entry is the low byte's. -/
theorem crcStep_eq_table (c : Half) (b : Byte) :
    crcStep p c b = (highByte c).setWidth 16 ^^^ crcStep p 0#16 (lowByte c ^^^ b) := by
  rw [crcStep, xor_byte_eq_high_xor_low, crcShifts_xor, crcShifts_eight_high, crcStep, BitVec.zero_xor]

theorem crcStep_xor (c₁ c₂ : Half) (b₁ b₂ : Byte) :
    crcStep p (c₁ ^^^ c₂) (b₁ ^^^ b₂) = crcStep p c₁ b₁ ^^^ crcStep p c₂ b₂ := by
  have hgroup : (c₁ ^^^ c₂) ^^^ (b₁ ^^^ b₂).setWidth 16 = (c₁ ^^^ b₁.setWidth 16) ^^^ (c₂ ^^^ b₂.setWidth 16) := by
    rw [BitVec.setWidth_xor]; ac_rfl
  rw [crcStep, hgroup, crcShifts_xor]; rfl

/-- Folding the byte that the accumulator holds, in its low byte with a zero high byte, gives zero. -/
@[simp] theorem crcStep_setWidth_self (b : Byte) : crcStep p (b.setWidth 16) b = 0#16 := by
  rw [crcStep, BitVec.xor_self, crcShifts_zero]

@[simp] theorem crcStep_zero : crcStep p 0#16 0#8 = 0#16 := crcStep_setWidth_self p 0#8

/-- Folding the accumulator's own low byte leaves its high byte. -/
@[simp] theorem crcStep_lowByte (c : Half) : crcStep p c (lowByte c) = (highByte c).setWidth 16 := by
  rw [crcStep_eq_table, BitVec.xor_self, crcStep_zero, BitVec.xor_zero]

/-- Folding the accumulator's own two bytes, low byte first, gives zero. -/
theorem crcFold_ownBytes (c : Half) : crcFold p c [lowByte c, highByte c] = 0#16 := by
  simp [crcFold]

end Step

/-! `crc16` of concatenations, of an exclusive-or and of zero bytes (40_crc.md R81, R87, R90). -/

theorem crc16_append (p : Config) (s t : List Byte) : crc16 p (s ++ t) = crcFold p (crc16 p s) t :=
  crcFold_append p p.crcInit s t

theorem crcFold_xor (p : Config) {s t : List Byte} (h : s.length = t.length) (c₁ c₂ : Half) :
    crcFold p (c₁ ^^^ c₂) (List.zipWith (· ^^^ ·) s t) = crcFold p c₁ s ^^^ crcFold p c₂ t := by
  induction s generalizing t c₁ c₂ with
  | nil =>
    obtain rfl := List.eq_nil_of_length_eq_zero h.symm
    rfl
  | cons b s ih =>
    cases t with
    | nil => cases h
    | cons d t => simp only [List.zipWith_cons_cons, crcFold, crcStep_xor, ih (Nat.succ.inj h)]

theorem crcFold_zeroBytes (p : Config) (k : Nat) : crcFold p 0#16 (List.replicate k 0#8) = 0#16 := by
  induction k with
  | zero => rfl
  | succ k ih => rw [List.replicate_succ, crcFold, crcStep_zero, ih]

/-! A generator whose bit 15 is 1 loses nothing: bit 15 after an iteration says whether the generator entered. -/

section TopBit

variable {p : Config} (hp : p.crcPolyR.getLsbD 15 = true)
include hp

theorem crcShift_getLsbD_top (x : Half) : (crcShift p x).getLsbD 15 = x.getLsbD 0 := by
  have htop : (x >>> 1).getLsbD 15 = false := by
    rw [BitVec.getLsbD_ushiftRight]; exact BitVec.getLsbD_of_ge x 16 (Nat.le_refl 16)
  cases hx : x.getLsbD 0 with
  | false => rw [crcShift_of_even p hx, htop]
  | true => rw [crcShift_of_odd p hx, BitVec.getLsbD_xor, htop, hp]; rfl

theorem crcShift_injective : Function.Injective (crcShift p) := by
  intro x y h
  have hbit : x.getLsbD 0 = y.getLsbD 0 := by
    rw [← crcShift_getLsbD_top hp x, h, crcShift_getLsbD_top hp y]
  have hshift : x >>> 1 = y >>> 1 := by
    cases hy : y.getLsbD 0 <;> rw [hy] at hbit
    · rwa [crcShift_of_even p hbit, crcShift_of_even p hy] at h
    · rwa [crcShift_of_odd p hbit, crcShift_of_odd p hy, BitVec.xor_left_inj] at h
  refine BitVec.eq_of_getLsbD_eq fun i _ => ?_
  cases i with
  | zero => exact hbit
  | succ i =>
    have hi := congrArg (fun v : Half => v.getLsbD i) hshift
    simpa only [BitVec.getLsbD_ushiftRight, Nat.add_comm 1 i] using hi

theorem crcShifts_injective (n : Nat) : Function.Injective (crcShifts p n) := by
  intro x y h
  rw [crcShifts_eq_iterate, crcShifts_eq_iterate] at h
  exact (crcShift_injective hp).iterate n h

/-- Different accumulators stay different under the same byte. -/
theorem crcStep_injective_accumulator (b : Byte) : Function.Injective fun c : Half => crcStep p c b :=
  fun _ _ h => (BitVec.xor_left_inj _).1 (crcShifts_injective hp 8 h)

/-- Different bytes take the same accumulator to different ones. -/
theorem crcStep_injective_byte (c : Half) : Function.Injective (crcStep p c) := by
  intro b d h
  have hwide : b.setWidth 16 = d.setWidth 16 := (BitVec.xor_right_inj c).1 (crcShifts_injective hp 8 h)
  rw [← lowByte_setWidth b, hwide, lowByte_setWidth]

theorem crcStep_bijective (b : Byte) : Function.Bijective fun c : Half => crcStep p c b :=
  Finite.injective_iff_bijective.1 (crcStep_injective_accumulator hp b)

theorem crcFold_injective (s : List Byte) : Function.Injective fun c : Half => crcFold p c s := by
  induction s with
  | nil => exact fun _ _ h => h
  | cons b s ih => exact ih.comp (crcStep_injective_accumulator hp b)

/-- Changing one byte changes the accumulator, whatever bytes follow (40_crc.md R89). -/
theorem crc16_set_ne {s : List Byte} {k : Nat} {x : Byte} (hk : k < s.length) (hx : x ≠ s.getD k 0#8) :
    crc16 p (s.set k x) ≠ crc16 p s := by
  intro h
  have hs : s = s.take k ++ s[k] :: s.drop (k + 1) := by rw [← List.drop_eq_getElem_cons hk, List.take_append_drop]
  rw [List.set_eq_take_append_cons_drop, if_pos hk, crc16_append] at h
  nth_rw 3 [hs] at h
  rw [crc16_append] at h
  have hbyte : x = s[k] := crcStep_injective_byte hp _ (crcFold_injective hp _ h)
  exact hx (hbyte.trans (List.getD_eq_getElem s 0#8 hk).symm)

/-- Two bytes after a sequence bring the checksum to zero exactly when they are the sequence's own checksum, low byte
first (40_crc.md R88). -/
theorem crc16_append_pair_eq_zero_iff (m : List Byte) (x y : Byte) :
    crc16 p (m ++ [x, y]) = 0#16 ↔ crc16 p m = (y ++ x : Half) := by
  have hown : crcFold p (y ++ x : Half) [x, y] = 0#16 := by
    simpa only [lowByte_append, highByte_append] using crcFold_ownBytes p (y ++ x : Half)
  rw [crc16_append, ← hown]
  exact (crcFold_injective hp [x, y]).eq_iff

end TopBit

/-- Bit 15 of the block's generator is 1. -/
theorem fcb_crcPolyR_top : fcb.crcPolyR.getLsbD 15 = true := by decide

/-- On the block a sequence has checksum zero exactly when its last two bytes carry the checksum of those before them: the
zero residue is the trailer check (40_crc.md R88). -/
theorem crc16_eq_zero_iff_trailer {B : List Byte} (h : 2 ≤ B.length) :
    crc16 fcb B = 0#16 ↔
      crc16 fcb (B.take (B.length - 2)) = (B.getD (B.length - 1) 0#8 ++ B.getD (B.length - 2) 0#8 : Half) := by
  obtain ⟨x, y, hxy⟩ := List.length_eq_two.1
    (show (B.drop (B.length - 2)).length = 2 by rw [List.length_drop]; omega)
  obtain ⟨m, rfl⟩ : ∃ m, B = m ++ [x, y] := ⟨B.take (B.length - 2), by rw [← hxy, List.take_append_drop]⟩
  rw [crc16_append_pair_eq_zero_iff fcb_crcPolyR_top]
  simp

/-- The checksum of a whole well-formed frame is zero. -/
theorem crc16_of_decodeFrame {B : List Byte} {F : Frame} (h : decodeFrame fcb B = .ok F) : crc16 fcb B = 0#16 := by
  obtain ⟨hmin, hcrc, -, -⟩ := (decodeFrame_ok_iff fcb B F).1 h
  rw [fcb_minFrame] at hmin
  exact (crc16_eq_zero_iff_trailer (by omega)).2 hcrc

/-! The three commands (40_crc.md R82 to R84). -/

theorem exec_crcClr (s : State) : exec .crcClr s = .next (complete { s with crc := 0#16 }) := rfl

theorem exec_crcUpd (s : State) : exec .crcUpd s = .next (complete { s with crc := crcStep fcb s.crc s.din }) := rfl

theorem exec_crcBuf_of_holds {s : State} {B : List Byte} (hl : B.length = s.rxLen.toNat) (hB : Holds s.rxbuf B) :
    exec .crcBuf s = .next (complete { s with crc := crc16 fcb B }) := by
  show runCrcBuf fcb s = _
  rw [runCrcBuf, (rxBytes_ok_iff s B).2 ⟨hl, hB⟩]

/-- `CMD c` of a host program is the command (30_encoding.md R74). -/
theorem exec_issueCommand (c : Command) (s : State) : exec (issueCommand c) s = exec (commandInstr c) s :=
  exec_wr_cmd_of_some (by rw [lowByte_setWidth, commandOfCode_commandCode]) s

/-- `WR DIN, b` and `CMD CRC.UPD` for each byte fold the bytes into `CRC`. -/
theorem runAll_foldBytes (bytes : List Byte) (s : State) :
    ∃ t, runAll (foldBytes bytes) s = .next t ∧ t.crc = crcFold fcb s.crc bytes ∧ (s.err = 0#4 → t.err = 0#4) := by
  induction bytes generalizing s with
  | nil => exact ⟨s, rfl, rfl, id⟩
  | cons b bytes ih =>
    have hdin : exec (.wr .din (b.setWidth 16)) s = .next (noReply { s with din := b }) := by
      show Host.Outcome.next (noReply { s with din := lowByte (b.setWidth 16) }) = _
      rw [lowByte_setWidth]
    have hupd := (exec_issueCommand .crcUpd (noReply { s with din := b })).trans (exec_crcUpd _)
    obtain ⟨t, ht, hcrc, herr⟩ := ih (complete { noReply { s with din := b } with crc := crcStep fcb s.crc b })
    refine ⟨t, ?_, hcrc, fun _ => herr rfl⟩
    rw [foldBytes, runAll_cons_of_next hdin, runAll_cons_of_next hupd]
    exact ht

end Machine

/-- Settles O25: `crc_step` is an iterate of `crcShift`, whose test of bit 0 is the rule's. -/
theorem crcStepIsEightShifts : Obligations.CrcStepIsEightShifts := by
  intro c b
  have hshift : (fun x : Half => if x &&& 1#16 = 1#16 then (x >>> 1) ^^^ 0x8408#16 else x >>> 1) = crcShift fcb := by
    funext x
    rw [BitVec.and_one_eq_setWidth_ofBool_getLsbD]
    cases hx : x.getLsbD 0 with
    | false => rw [crcShift_of_even fcb hx]; exact if_neg (by decide)
    | true => rw [crcShift_of_odd fcb hx]; exact if_pos (by decide)
  rw [hshift, ← crcShifts_eq_iterate, ← setWidth_byte]
  rfl

/-- Settles O27, from `crcStep_eq_table`; the ten entries are evaluated. -/
theorem crcStepHasTableForm : Obligations.CrcStepHasTableForm := by
  refine ⟨fun c b => ?_, by decide⟩
  have hlow : (c ^^^ (0#8 ++ b : Half)).extractLsb' 0 8 = lowByte c ^^^ b := by
    rw [BitVec.extractLsb'_xor]; exact congrArg (lowByte c ^^^ ·) (lowByte_append b 0#8)
  rw [hlow, ushiftRight_eight, ← crcStep_eq_table]

/-- Settles O28: the clauses on sequences from `crcFold_xor` and `crcStep_zero`, as `CRC_INIT` is 0; the bijection as bit 15
of the generator is 1. -/
theorem crcIsLinear : Obligations.CrcIsLinear := by
  refine ⟨crcStep_xor fcb, crcStep_zero fcb, fun s t h => ?xor, fun s => ?leadingZero, crcFold_zeroBytes fcb,
    crcStep_bijective fcb_crcPolyR_top⟩
  case xor => exact crcFold_xor fcb h 0#16 0#16
  case leadingZero => rw [crc16, crcFold, fcb_crcInit, crcStep_zero]; rfl

/-- Settles O29: the two bytes of the checksum are the accumulator's own, and by injectivity of the fold no other two bytes
lead to zero. -/
theorem crcOfMessageWithTrailerIsZero : Obligations.CrcOfMessageWithTrailerIsZero :=
  ⟨fun p m => (crc16_append p m _).trans (crcFold_ownBytes p _), crc16_append_pair_eq_zero_iff fcb_crcPolyR_top⟩

/-- Settles O30: the frame has checksum zero and the changed one has not, so its trailer check fails. -/
theorem crcDetectsAnyChangedByte : Obligations.CrcDetectsAnyChangedByte := by
  refine ⟨fun d hd h => ?tableEntry, crcStep_bijective fcb_crcPolyR_top 0#8, crcStep_zero fcb,
    fun f F k x hf hk hx htrailer => ?changedByte⟩
  case tableEntry =>
    exact hd (crcStep_injective_byte fcb_crcPolyR_top 0#16 (h.trans (crcStep_zero fcb).symm))
  case changedByte =>
    obtain ⟨hmin, -⟩ := (decodeFrame_ok_iff fcb f F).1 hf
    rw [fcb_minFrame] at hmin
    have hlen : (f.set k x).length = f.length := List.length_set
    rw [← hlen, ← crc16_eq_zero_iff_trailer (by omega), ← crc16_of_decodeFrame hf] at htrailer
    exact crc16_set_ne fcb_crcPolyR_top hk hx htrailer

/-- Settles O31, from `crc16_append`, `runAll_foldBytes` after `CRC.CLR`, and `exec_crcBuf_of_holds`. -/
theorem crcByteByByteEqualsCrcOfBuffer : Obligations.CrcByteByByteEqualsCrcOfBuffer := by
  refine ⟨fun s t => ?concatenation, fun bytes s => ?program, fun bytes s hl hB => ?buffer⟩
  case concatenation => rw [crc16_append, crcFold_eq_foldl]
  case program =>
    have hclr := (exec_issueCommand .crcClr s).trans (exec_crcClr s)
    obtain ⟨t, ht, hcrc, herr⟩ := runAll_foldBytes bytes (complete { s with crc := 0#16 })
    exact ⟨t, (runAll_cons_of_next hclr _).trans ht, hcrc, herr rfl⟩
  case buffer => exact ⟨_, exec_crcBuf_of_holds hl.symm hB, rfl⟩

/-- Settles O34: the word is the encoder's, an empty buffer holds the empty sequence, and a well-formed frame has checksum
zero by `crc16_of_decodeFrame`. -/
theorem crcBufChecksumsTheReceiveBuffer : Obligations.CrcBufChecksumsTheReceiveBuffer := by
  refine ⟨decode_of_encode_eq (i := .crcBuf) rfl rfl, fun s B hl hB => exec_crcBuf_of_holds hl hB, fun s h => ?empty,
    fun B F h => crc16_of_decodeFrame h⟩
  case empty => exact exec_crcBuf_of_holds (B := []) (by rw [h]; rfl) nofun

/-- Settles O26, from `crc16_append`; the check value is evaluated. -/
theorem crcFoldsBytesInOrder : Obligations.CrcFoldsBytesInOrder :=
  ⟨rfl, fun s b => crc16_append fcb s [b], by decide +kernel⟩

/-- Settles O32, from `exec_crcClr`. -/
theorem crcClrClearsTheAccumulator : Obligations.CrcClrClearsTheAccumulator :=
  ⟨decode_of_encode_eq (i := .crcClr) rfl rfl, exec_crcClr⟩

/-- Settles O33, from `exec_crcUpd` and `crcStep_zero`; the example is evaluated. -/
theorem crcUpdFoldsOneByte : Obligations.CrcUpdFoldsOneByte :=
  ⟨decode_of_encode_eq (i := .crcUpd) rfl rfl, exec_crcUpd, crcStep_zero fcb, by decide⟩

end Sys2Proof
end

section
/-! PROOFS. The encoder of 41_encode.md: the function `encode` on and off its domain, the two exits of ENCODE as whole next states, and the frames it builds, well formed and accepted by DECODE. -/

namespace Sys2Proof

open Sys2Proof.Machine

namespace Machine

/-! The function `encode` (41_encode.md R100). -/

/-- The bytes before the trailer of a Command's frame, with the length byte by the number of its parameters. -/
theorem frameBody_cons (x y op : Byte) (params : List Byte) :
    frameBody x y (op :: params) = [x, y, BitVec.ofNat 8 (6 + params.length), op] ++ params := by
  rw [frameBody, show hdrLen + (op :: params).length + trlLen = 6 + params.length by
    simp only [hdrLen, trlLen, List.length_cons]; omega]
  rfl

theorem encodeFrame_of_le (p : Config) (x y op : Byte) {params : List Byte} (h : params.length ≤ 249) :
    encodeFrame p x y op params = some (buildFrame p x y (op :: params)) :=
  if_pos h

theorem encodeFrame_of_lt (p : Config) (x y op : Byte) {params : List Byte} (h : 249 < params.length) :
    encodeFrame p x y op params = none :=
  if_neg (Nat.not_le.2 h)

/-- All but the last two bytes of a frame are the bytes before its trailer. -/
theorem buildFrame_take_length_sub_two (p : Config) (x y : Byte) (data : List Byte) :
    (buildFrame p x y data).take ((buildFrame p x y data).length - 2) = frameBody x y data := by
  rw [buildFrame_length, show data.length + 5 - 2 = data.length + 3 by omega, buildFrame_take]

/-- Where `encode` has a value, it is a frame of 6 to 255 bytes that passes the checks of 42_decode_validate.md R110
(41_encode.md R103). -/
theorem wellFormed_of_encodeFrame {x y op : Byte} {params f : List Byte} (h : encodeFrame fcb x y op params = some f) :
    6 ≤ f.length ∧ f.length ≤ 255 ∧ (f.getD 2 0#8).toNat = f.length ∧
      crc16 fcb (f.take (f.length - 2)) = f.getD (f.length - 1) 0#8 ++ f.getD (f.length - 2) 0#8 ∧
      ∃ F, decodeFrame fcb f = .ok F := by
  by_cases hk : params.length ≤ 249
  · obtain rfl : buildFrame fcb x y (op :: params) = f :=
      Option.some.inj ((encodeFrame_of_le fcb x y op hk).symm.trans h)
    have hmin : fcb.minFrame ≤ (op :: params).length + 5 := by simp
    have hd := decodeFrame_buildFrame fcb x y (op :: params) hmin (by rw [maxData_eq, List.length_cons]; omega)
    obtain ⟨h6, hcrc, hlen, -⟩ := (decodeFrame_ok_iff fcb _ _).1 hd
    refine ⟨h6, ?_, hlen, hcrc, _, hd⟩
    rw [buildFrame_length, List.length_cons]; omega
  · rw [encodeFrame_of_lt fcb x y op (Nat.not_le.1 hk)] at h
    cases h

/-! The command `ENCODE` (41_encode.md R101). -/

/-- The next state of a successful `ENCODE`, its checksum by the frame it wrote. -/
theorem encodeOk_eq (p : Config) {s : State} {params : List Byte} (hl : params.length = s.plen.toNat) :
    encodeOk p s params =
      { s with
        txbuf := (encodeOk p s params).txbuf
        txLen := BitVec.ofNat 8 (6 + s.plen.toNat)
        crc := crc16 p ((buildFrame p s.syncVal s.addrVal (s.opcode :: params)).take
          ((buildFrame p s.syncVal s.addrVal (s.opcode :: params)).length - 2))
        txValid := true, err := 0#4, reply := .none } := by
  rw [buildFrame_take_length_sub_two, ← encodeBody_eq hl]
  rfl

theorem exec_encode_tooLong {s : State} (h : 249 < s.plen.toNat) :
    exec .encode s = .next (raise .tooLong { s with txValid := false, txLen := 0#8 }) :=
  if_pos h

theorem exec_encode_of_holds {s : State} {params : List Byte} (hl : params.length = s.plen.toNat)
    (hmax : s.plen.toNat ≤ 249) (hB : Holds s.pbuf params) : exec .encode s = .next (encodeOk fcb s params) :=
  runEncode_holds fcb hmax hl hB

/-- `DECODE` of a buffer that decodes to a Frame completes with `FVALID` = 1 (42_decode_validate.md R111). -/
theorem exec_decode_of_decodeFrame {u : State} {B : List Byte} {F : Frame} (hl : B.length = u.rxLen.toNat)
    (hB : Holds u.rxbuf B) (hd : decodeFrame fcb B = .ok F) : ∃ v, exec .decode u = .next v ∧ v.fValid = true := by
  obtain ⟨hmin, -⟩ := (decodeFrame_ok_iff fcb B F).1 hd
  have hrun := decodeThen_holds finishDecode (hl ▸ hmin) hl hB
  rw [hd] at hrun
  exact ⟨_, hrun, rfl⟩

end Machine

/-- Settles O35: the frame is `buildFrame` of the opcode and the parameters, whose length byte does not wrap as 6 + 249 is
255. -/
theorem encodeFunctionAssemblesTheFrame : Obligations.EncodeFunctionAssemblesTheFrame := by
  refine ⟨fun x y op params hk => ?_, fun x y op params hk => encodeFrame_of_lt fcb x y op hk⟩
  have hn : (BitVec.ofNat 8 (6 + params.length)).toNat = 6 + params.length := by
    rw [BitVec.toNat_ofNat, Nat.mod_eq_of_lt (by omega)]
  have hf := encodeFrame_of_le fcb x y op hk
  obtain ⟨hmin, hmax, -⟩ := wellFormed_of_encodeFrame hf
  refine ⟨BitVec.ofNat 8 (6 + params.length), frameBody x y (op :: params), buildFrame fcb x y (op :: params), _, hn,
    frameBody_cons x y op params, ?bodyLength, rfl, rfl, ?frameLength, hmin, hmax, hf⟩
  case bodyLength => rw [frameBody_length, List.length_cons, hn]; omega
  case frameLength => rw [buildFrame_length, List.length_cons, hn]; omega

/-- Settles O36: the two exits by `exec_encode_tooLong` and `exec_encode_of_holds`, and `TXBUF` by `encodeOk_txbuf_read`. -/
theorem encodeBuildsTheRequestFrame : Obligations.EncodeBuildsTheRequestFrame := by
  refine ⟨decode_of_encode_eq (i := .encode) rfl rfl, fun s h => exec_encode_tooLong h, fun s params hl hmax hB => ?_⟩
  refine ⟨(encodeOk fcb s params).txbuf, buildFrame fcb s.syncVal s.addrVal (s.opcode :: params),
    encodeFrame_of_le fcb _ _ _ (hl ▸ hmax), ?_, encodeOk_txbuf_read hl⟩
  rw [exec_encode_of_holds hl hmax hB, ← encodeOk_eq fcb hl]

/-- Settles O38: the frame in `TXBUF` is a value of `encode`, so it passes the checks, and `DECODE` of a copy of it does
what the function `decode` does. -/
theorem encodedFramesAreWellFormed : Obligations.EncodedFramesAreWellFormed := by
  intro s t hmax h
  rcases exec_encode_next h with ⟨hlong, -⟩ | ⟨-, params, hl, -, rfl⟩
  · omega
  · obtain ⟨hmin, hlt, hlen, hcrc, F, hd⟩ :=
      wellFormed_of_encodeFrame (encodeFrame_of_le fcb s.syncVal s.addrVal s.opcode (hl ▸ hmax))
    have htx : (buildFrame fcb s.syncVal s.addrVal (s.opcode :: params)).length =
        (encodeOk fcb s params).txLen.toNat := by
      rw [encodeOk_txLen_toNat fcb hmax, buildFrame_length, List.length_cons, hl]; omega
    exact ⟨_, encodeOk_holds_frame fcb hl, htx, hlen, hmin, hlt, hcrc, fun u hu hB =>
      exec_decode_of_decodeFrame (htx.trans (congrArg _ hu.symm)) hB hd⟩

end Sys2Proof
end

section
/-! PROOFS. The decoder and the validator of 42_decode_validate.md: the function `decode` check by check, the exits of DECODE and VALIDATE, what a damaged or misdelimited buffer meets, and the round trip through LOOPBACK. -/

namespace Sys2Proof

open Sys2Proof.Machine

namespace Machine

/-! The functions `decode` and `classify` (42_decode_validate.md R110, R113). -/

/-- The Frame that the bytes of `B` describe, whether or not `B` passes the checks. -/
def frameOf (B : List Byte) : Frame :=
  { sync := B.getD 0 0#8, address := B.getD 1 0#8, length := B.getD 2 0#8,
    data := (B.drop 3).take (B.length - 5), crc16 := B.getD (B.length - 1) 0#8 ++ B.getD (B.length - 2) 0#8 }

section DecodeFrame

variable {B : List Byte}

theorem frameOf_data_length : (frameOf B).data.length = B.length - 5 := by
  show ((B.drop 3).take (B.length - 5)).length = _
  rw [List.length_take, List.length_drop]
  omega

theorem frameOf_data_getD {j : Nat} (hj : j < B.length - 5) : (frameOf B).data.getD j 0#8 = B.getD (3 + j) 0#8 := by
  simp [frameOf, List.getD_eq_getElem?_getD, hj]

theorem decodeFrame_of_short (h : B.length < 6) : decodeFrame fcb B = .error .tooShort := if_pos h

theorem decodeFrame_of_trailer_ne (h : 6 ≤ B.length)
    (ht : crc16 fcb (B.take (B.length - 2)) ≠ (frameOf B).crc16) : decodeFrame fcb B = .error .badChecksum :=
  (if_neg (Nat.not_lt.2 h)).trans (if_pos ht)

theorem decodeFrame_of_length_ne (h : 6 ≤ B.length) (ht : crc16 fcb (B.take (B.length - 2)) = (frameOf B).crc16)
    (hn : (B.getD 2 0#8).toNat ≠ B.length) : decodeFrame fcb B = .error .badLength :=
  (if_neg (Nat.not_lt.2 h)).trans ((if_neg (not_not.2 ht)).trans (if_pos hn))

theorem decodeFrame_of_checks (h : 6 ≤ B.length) (ht : crc16 fcb (B.take (B.length - 2)) = (frameOf B).crc16)
    (hn : (B.getD 2 0#8).toNat = B.length) : decodeFrame fcb B = .ok (frameOf B) :=
  (decodeFrame_ok_iff fcb B _).2 ⟨h, ht, hn, rfl⟩

/-- A buffer that decodes to a Frame has passed the checks, and the Frame is the one its bytes describe. -/
theorem checks_of_decodeFrame {F : Frame} (hd : decodeFrame fcb B = .ok F) :
    6 ≤ B.length ∧ crc16 fcb (B.take (B.length - 2)) = F.crc16 ∧ (B.getD 2 0#8).toNat = B.length ∧ F = frameOf B := by
  obtain ⟨hmin, hcrc, hlen, rfl⟩ := (decodeFrame_ok_iff fcb B F).1 hd
  exact ⟨hmin, hcrc, hlen, rfl⟩

end DecodeFrame

theorem classify_eq_ack_iff (data : List Byte) : classify data = .ack ↔ data = [0x00#8] := by
  rcases classify_cases data with ⟨rfl, hc⟩ | ⟨rfl, hc⟩ | ⟨hack, -, hc⟩ <;> rw [hc]
  · decide
  · decide
  · exact ⟨nofun, fun h => absurd h hack⟩

theorem classify_eq_nak_iff (data : List Byte) : classify data = .nak ↔ data = [0xFF#8] := by
  rcases classify_cases data with ⟨rfl, hc⟩ | ⟨rfl, hc⟩ | ⟨-, hnak, hc⟩ <;> rw [hc]
  · decide
  · decide
  · exact ⟨nofun, fun h => absurd h hnak⟩

/-- Three classes, so a payload is DATA exactly when it is neither of the other two. -/
theorem classify_eq_data_iff (data : List Byte) : classify data = .data ↔ data ≠ [0x00#8] ∧ data ≠ [0xFF#8] := by
  rw [ne_eq, ne_eq, ← classify_eq_ack_iff, ← classify_eq_nak_iff]
  cases classify data <;> decide

end Machine

/-- Settles O39: the four clauses are the four `decodeFrame_of_` lemmas, and the Frame is `frameOf B`. -/
theorem decodeFunctionChecksInOrder : Obligations.DecodeFunctionChecksInOrder := by
  rintro B _ _ _ rfl - rfl rfl
  exact ⟨decodeFrame_of_short, decodeFrame_of_trailer_ne, decodeFrame_of_length_ne, fun h ht hn =>
    ⟨frameOf B, decodeFrame_of_checks h ht hn, rfl, rfl, rfl, rfl, frameOf_data_length, fun _ => frameOf_data_getD⟩⟩

/-- Settles O40, from the class of each of the three kinds of payload. -/
theorem classifyNamesAckNakData : Obligations.ClassifyNamesAckNakData :=
  fun data => ⟨classify_eq_ack_iff data, classify_eq_nak_iff data, classify_eq_data_iff data⟩

namespace Machine

/-! The exits of `DECODE` and `VALIDATE` (42_decode_validate.md R111, R114). -/

/-- The state that `DECODE` leaves where the buffer `B` decodes to `F`. -/
def decodedState (B : List Byte) (F : Frame) (s : State) : State :=
  complete (acceptFrame B F.crc16 (afterChecksum fcb B s))

/-- What `VALIDATE` adds to the state of `DECODE`: the class, and `DeviceNAK` for a NAK. -/
def withClass (k : PayloadClass) (d : State) : State :=
  { d with cls := classCode k, err := if k = .nak then errCode .deviceNak else 0#4 }

section Exits

variable {s : State} {B : List Byte}

/-- A rejected buffer of at least the minimum length: the checksum is stored and the error raised, whatever the command
would have done last. -/
theorem decodeThen_of_error (finish : List Byte → State → State) {e : Err} (h : 6 ≤ s.rxLen.toNat)
    (hl : B.length = s.rxLen.toNat) (hB : Holds s.rxbuf B) (hd : decodeFrame fcb B = .error e) :
    decodeThen fcb finish s = .next (raise e (afterChecksum fcb B s)) := by
  rw [decodeThen_holds finish h hl hB, hd]

theorem decodeThen_of_ok (finish : List Byte → State → State) {F : Frame} (hl : B.length = s.rxLen.toNat)
    (hB : Holds s.rxbuf B) (hd : decodeFrame fcb B = .ok F) :
    decodeThen fcb finish s = .next (finish B (acceptFrame B F.crc16 (afterChecksum fcb B s))) := by
  obtain ⟨hmin, -⟩ := checks_of_decodeFrame hd
  rw [decodeThen_holds finish (hl ▸ hmin) hl hB, hd]

/-- Where the function `decode` answers an error, `DECODE` and `VALIDATE` answer one state, with the error's code and the
decode result withdrawn. -/
theorem exec_of_decodeFrame_error {e : Err} (hl : B.length = s.rxLen.toNat) (hB : Holds s.rxbuf B)
    (hd : decodeFrame fcb B = .error e) :
    ∃ u, exec .decode s = .next u ∧ exec .validate s = .next u ∧ u.err = errCode e ∧ invalidateFrame u = u := by
  by_cases h : s.rxLen.toNat < 6
  · obtain rfl : Err.tooShort = e := Except.error.inj ((decodeFrame_of_short (hl ▸ h)).symm.trans hd)
    exact ⟨_, decodeThen_short finishDecode h, decodeThen_short finishValidate h, rfl, rfl⟩
  · rw [Nat.not_lt] at h
    exact ⟨_, decodeThen_of_error finishDecode h hl hB hd, decodeThen_of_error finishValidate h hl hB hd, rfl, rfl⟩

theorem exec_decode_of_ok {F : Frame} (hl : B.length = s.rxLen.toNat) (hB : Holds s.rxbuf B)
    (hd : decodeFrame fcb B = .ok F) : exec .decode s = .next (decodedState B F s) :=
  decodeThen_of_ok finishDecode hl hB hd

/-- The last action of `VALIDATE` on an accepted frame is that of `DECODE`, and the class. -/
theorem finishValidate_eq_withClass {F : Frame} (hd : decodeFrame fcb B = .ok F) (s : State) :
    finishValidate B (acceptFrame B F.crc16 s) = withClass (classify F.data) (complete (acceptFrame B F.crc16 s)) := by
  rw [finishValidate_accept hd]
  cases classify F.data <;> rfl

theorem exec_validate_of_ok {F : Frame} (hl : B.length = s.rxLen.toNat) (hB : Holds s.rxbuf B)
    (hd : decodeFrame fcb B = .ok F) : exec .validate s = .next (withClass (classify F.data) (decodedState B F s)) :=
  (decodeThen_of_ok finishValidate hl hB hd).trans (congrArg _ (finishValidate_eq_withClass hd _))

end Exits

theorem fValid_of_withdrawn {u : State} (h : invalidateFrame u = u) : u.fValid = false := by
  rw [← h]; rfl

end Machine

/-- Settles O41: the error exits by `decodeThen_of_error`, the last one by `exec_decode_of_ok`, each on the answer of the
function `decode`. -/
theorem decodeReportsTheFrameOrTheError : Obligations.DecodeReportsTheFrameOrTheError := by
  refine ⟨decode_of_encode_eq (i := .decode) rfl rfl, fun s h => decodeThen_short finishDecode h,
    fun s B n c t hn h6 hl hB hc ht => ?_⟩
  subst hl hc ht
  refine ⟨fun hne => ?badChecksum, fun heq hlen => ?badLength, fun heq hlen => ?frame⟩
  case badChecksum => exact decodeThen_of_error finishDecode (hn ▸ h6) hn hB (decodeFrame_of_trailer_ne h6 hne)
  case badLength => exact decodeThen_of_error finishDecode (hn ▸ h6) hn hB (decodeFrame_of_length_ne h6 heq hlen)
  case frame => exact exec_decode_of_ok hn hB (decodeFrame_of_checks h6 heq hlen)

/-- Settles O42, from the exits of both commands; the payload's class by `classify_eq_ack_iff` and its companions. -/
theorem validateClassifiesTheDecodedFrame : Obligations.ValidateClassifiesTheDecodedFrame := by
  refine ⟨decode_of_encode_eq (i := .validate) rfl rfl, fun s h => ?short, fun s B h6 hl hB => ?held⟩
  case short =>
    have hdecode : exec .decode s = _ := decodeThen_short finishDecode h
    exact ⟨(decodeThen_short finishValidate h).trans hdecode.symm, _, hdecode⟩
  case held =>
    cases hd : decodeFrame fcb B with
    | error e =>
      obtain ⟨u, hdecode, hvalidate, herr, hu⟩ := exec_of_decodeFrame_error hl hB hd
      refine ⟨u, hdecode, fun e' he => ?_, nofun⟩
      cases he
      exact ⟨herr, fValid_of_withdrawn hu, hvalidate⟩
    | ok F =>
      have hvalidate := exec_validate_of_ok hl hB hd
      refine ⟨_, exec_decode_of_ok hl hB hd, nofun, fun F' hF => ?_⟩
      cases hF
      refine ⟨rfl, rfl, fun h => ?ack, fun h => ?nak, fun hack hnak => ?data⟩
      case ack => rw [hvalidate, (classify_eq_ack_iff _).2 h]; rfl
      case nak => rw [hvalidate, (classify_eq_nak_iff _).2 h]; rfl
      case data => rw [hvalidate, (classify_eq_data_iff _).2 ⟨hack, hnak⟩]; rfl

namespace Machine

/-! The decode result as a description of a Frame (10_state.md R32, 42_decode_validate.md R119). -/

/-- The frame registers, `CRC` and the receive buffer of `u` describe the Frame `F`. -/
structure DescribesFrame (F : Frame) (u : State) : Prop where
  fValid : u.fValid = true
  fSync : u.fSync = F.sync
  fAddr : u.fAddr = F.address
  fLen : u.fLen = F.length
  fCrc : u.fCrc = F.crc16
  crc : u.crc = F.crc16
  payLen : u.payLen.toNat = F.data.length
  rxLen : u.rxLen = F.length
  sync : u.rxbuf.read 0 = some F.sync
  address : u.rxbuf.read 1 = some F.address
  payload : ∀ j, j < F.data.length → u.rxbuf.read (3 + j) = some (F.data.getD j 0#8)

theorem decodedState_describes {s : State} {B : List Byte} {F : Frame} (hl : B.length = s.rxLen.toNat)
    (hB : Holds s.rxbuf B) (hd : decodeFrame fcb B = .ok F) : DescribesFrame F (decodedState B F s) := by
  obtain ⟨hmin, hcrc, hlen, hF⟩ := checks_of_decodeFrame hd
  obtain ⟨hdata, -, hmax, -⟩ := payload_of_decodeFrame hd
  have hread : ∀ i, i < B.length → (decodedState B F s).rxbuf.read i = some (B.getD i 0#8) := fun i => hB.read_getD
  exact {
    fValid := rfl
    fSync := by rw [hF]; rfl
    fAddr := by rw [hF]; rfl
    fLen := by rw [hF]; rfl
    fCrc := rfl
    crc := hcrc
    payLen := by
      rw [hdata]
      exact Nat.mod_eq_of_lt (by omega)
    rxLen := by
      rw [hF]
      exact BitVec.eq_of_toNat_eq (hl.symm.trans hlen.symm)
    sync := by rw [hread 0 (by omega), hF]; rfl
    address := by rw [hread 1 (by omega), hF]; rfl
    payload := fun j hj => by
      rw [hread (3 + j) (by omega), hF, frameOf_data_getD (by omega)] }

/-- The class and the code of a NAK leave the description as it is. -/
theorem DescribesFrame.withClass {F : Frame} {d : State} (h : DescribesFrame F d) (k : PayloadClass) :
    DescribesFrame F (withClass k d) :=
  { h with }

end Machine

/-- Settles O43, by the answer of the function `decode`: an error withdraws the decode result, and a Frame is described by
the state of either command. -/
theorem decodeCommandsRefineTheFunctions : Obligations.DecodeCommandsRefineTheFunctions := by
  intro s B hl hB
  cases hd : decodeFrame fcb B with
  | error e =>
    obtain ⟨u, hdecode, hvalidate, herr, hu⟩ := exec_of_decodeFrame_error hl hB hd
    exact ⟨u, u, hdecode, hvalidate, herr, rfl, hu⟩
  | ok F =>
    have hdecoded := decodedState_describes hl hB hd
    refine ⟨_, _, exec_decode_of_ok hl hB hd, exec_validate_of_ok hl hB hd, rfl, rfl, rfl, rfl, fun u hu => ?_⟩
    have h : DescribesFrame F u := by
      rcases hu with rfl | rfl
      · exact hdecoded
      · exact hdecoded.withClass _
    exact ⟨h.fValid, h.fSync, h.fAddr, h.fLen, h.fCrc, h.crc, h.payLen, h.payload⟩

namespace Machine

/-! What a `DECODE` or `VALIDATE` that answers a next state has done. -/

section Next

variable {s t : State}

/-- Either an error other than `DeviceNAK`, with the decode result withdrawn, or the last action on an accepted frame. -/
theorem decodeThen_next {finish : List Byte → State → State} (h : decodeThen fcb finish s = .next t) :
    (∃ e, e ≠ .deviceNak ∧ t.err = errCode e ∧ invalidateFrame t = t) ∨
    ∃ B F, B.length = s.rxLen.toNat ∧ Holds s.rxbuf B ∧ decodeFrame fcb B = .ok F ∧
      t = finish B (acceptFrame B F.crc16 (afterChecksum fcb B s)) := by
  rcases decodeThen_cases fcb finish s with
    ⟨-, e⟩ | ⟨-, f, -, e⟩ | ⟨-, B, hl, hB, ⟨e', -, hnak, -, e⟩ | ⟨F, hd, e⟩⟩ <;> rw [e] at h <;> cases h
  · exact .inl ⟨.tooShort, by decide, rfl, rfl⟩
  · exact .inl ⟨e', hnak, rfl, rfl⟩
  · exact .inr ⟨B, F, hl, hB, hd, rfl⟩

theorem exec_decode_next (h : exec .decode s = .next t) :
    (∃ e, e ≠ .deviceNak ∧ t.err = errCode e ∧ invalidateFrame t = t) ∨
    ∃ F, DescribesFrame F t ∧ t.err = 0#4 ∧ t.rxLen = s.rxLen := by
  refine (decodeThen_next h).imp id ?_
  rintro ⟨B, F, hl, hB, hd, rfl⟩
  exact ⟨F, decodedState_describes hl hB hd, rfl, rfl⟩

theorem exec_validate_next (h : exec .validate s = .next t) :
    (∃ e, e ≠ .deviceNak ∧ t.err = errCode e ∧ invalidateFrame t = t) ∨
    ∃ F d, DescribesFrame F t ∧ t = withClass (classify F.data) d ∧ t.rxLen = s.rxLen ∧ t.rxbuf = s.rxbuf := by
  refine (decodeThen_next h).imp id ?_
  rintro ⟨B, F, hl, hB, hd, rfl⟩
  rw [finishValidate_eq_withClass hd]
  exact ⟨F, _, (decodedState_describes hl hB hd).withClass _, rfl, rfl, rfl⟩

end Next

theorem errCode_eq_four_iff (e : Err) : errCode e = 4#4 ↔ e = .deviceNak := by cases e <;> decide

theorem errCode_ne_zero (e : Err) : errCode e ≠ 0#4 := by cases e <;> decide

theorem withClass_err (k : PayloadClass) (d : State) :
    (k = .nak ∧ (withClass k d).err = 4#4) ∨ (k ≠ .nak ∧ (withClass k d).err = 0#4) := by
  cases k
  · exact .inr ⟨nofun, rfl⟩
  · exact .inl ⟨rfl, rfl⟩
  · exact .inr ⟨nofun, rfl⟩

end Machine

/-- Settles O44: a raised error is not `DeviceNAK` and leaves no valid frame, and on an accepted frame the only error is
the NAK's (`withClass_err`), whose payload is the one byte 0xFF. -/
theorem nakLeavesAValidFrame : Obligations.NakLeavesAValidFrame := by
  refine ⟨fun s t h h4 => ?nak, fun s t h h0 hv => ?onlyNak, fun s t h => ?decode⟩
  case nak =>
    rcases exec_validate_next h with ⟨e, hne, herr, -⟩ | ⟨F, d, hF, rfl, hlen, hbuf⟩
    · exact absurd ((errCode_eq_four_iff e).1 (herr.symm.trans h4)) hne
    · rcases withClass_err (classify F.data) d with ⟨hk, -⟩ | ⟨-, herr⟩
      · have hdata : F.data = [0xFF#8] := (classify_eq_nak_iff F.data).1 hk
        refine ⟨hF.fValid, ?payLen, hF.crc.trans hF.fCrc.symm, congrArg classCode hk, ?fLen, ?sync, ?address, ?payload⟩
        case payLen => exact BitVec.eq_of_toNat_eq (hF.payLen.trans (congrArg List.length hdata))
        case fLen => rw [← hlen, hF.fLen, hF.rxLen]
        case sync => rw [← hbuf, hF.sync, hF.fSync]
        case address => rw [← hbuf, hF.address, hF.fAddr]
        case payload => rw [← hbuf, hF.payload 0 (by rw [hdata]; decide), hdata]; rfl
      · rw [herr] at h4
        exact absurd h4 (by decide)
  case onlyNak =>
    rcases exec_validate_next h with ⟨e, -, -, hw⟩ | ⟨F, d, -, rfl, -⟩
    · rw [fValid_of_withdrawn hw] at hv
      cases hv
    · rcases withClass_err (classify F.data) d with ⟨-, h4⟩ | ⟨-, herr⟩
      · exact h4
      · exact absurd herr h0
  case decode =>
    rcases exec_decode_next h with ⟨e, -, herr, hw⟩ | ⟨F, hF, herr, -⟩
    · simp [herr, errCode_ne_zero, fValid_of_withdrawn hw]
    · exact iff_of_true herr hF.fValid

namespace Machine

/-! Independence of `SYNC_VAL` and `ADDR_VAL` (42_decode_validate.md R118). -/

/-- The state with other values in `SYNC_VAL` and `ADDR_VAL`. -/
def withHeader (x y : Byte) (s : State) : State := { s with syncVal := x, addrVal := y }

theorem finishValidate_withHeader (x y : Byte) (B : List Byte) (s : State) :
    finishValidate B (withHeader x y s) = withHeader x y (finishValidate B s) := by
  simp only [finishValidate, apply_ite (withHeader x y)]
  rfl

/-- `DECODE` and `VALIDATE` neither read nor write the two registers before their last action, so they commute with a
change of them where that action does. -/
theorem decodeThen_withHeader {x y : Byte} {finish : List Byte → State → State}
    (hfinish : ∀ B s, finish B (withHeader x y s) = withHeader x y (finish B s)) (s : State) :
    decodeThen fcb finish (withHeader x y s) =
      andThen (decodeThen fcb finish s) fun t => .next (withHeader x y t) := by
  rcases decodeThen_cases fcb finish s with
    ⟨h, e⟩ | ⟨h, f, hf, e⟩ | ⟨h, B, hl, hB, ⟨e', -, -, hd, e⟩ | ⟨F, hd, e⟩⟩ <;> rw [e]
  · exact decodeThen_short finish h
  · exact decodeThen_unwritten finish h hf
  · exact decodeThen_of_error finish h hl hB hd
  · have hok := decodeThen_of_ok (s := withHeader x y s) finish hl hB hd
    exact hok.trans (congrArg Host.Outcome.next (hfinish B (acceptFrame B F.crc16 (afterChecksum fcb B s))))

/-! Damage and misdelimited buffers, by the zero residue of a frame (40_crc.md R88, R89, 42_decode_validate.md R112,
R117). -/

/-- A well-formed frame with any one byte changed fails the trailer check. -/
theorem decodeFrame_set {f : List Byte} {F : Frame} {k : Nat} {x : Byte} (hf : decodeFrame fcb f = .ok F)
    (hk : k < f.length) (hx : x ≠ f.getD k 0#8) : decodeFrame fcb (f.set k x) = .error .badChecksum := by
  obtain ⟨-, -, -, htrailer⟩ := crcDetectsAnyChangedByte
  obtain ⟨hmin, -⟩ := checks_of_decodeFrame hf
  have hlen : (f.set k x).length = f.length := List.length_set
  have hne := htrailer f F k x hf hk hx
  rw [← hlen] at hne hmin
  exact decodeFrame_of_trailer_ne hmin hne

/-- A buffer of residue zero passes the trailer check, so the length check decides. -/
theorem decodeFrame_of_residue_zero {B : List Byte} (h : 6 ≤ B.length) (hcrc : crc16 fcb B = 0#16) :
    ((B.getD 2 0#8).toNat ≠ B.length → decodeFrame fcb B = .error .badLength) ∧
    ((B.getD 2 0#8).toNat = B.length → decodeFrame fcb B = .ok (frameOf B)) := by
  have htrailer : crc16 fcb (B.take (B.length - 2)) = (frameOf B).crc16 := (crc16_eq_zero_iff_trailer (by omega)).1 hcrc
  exact ⟨decodeFrame_of_length_ne h htrailer, decodeFrame_of_checks h htrailer⟩

/-- A frame followed by any bytes that keep the residue zero has the wrong length byte. -/
theorem decodeFrame_append {f g : List Byte} {F : Frame} (hf : decodeFrame fcb f = .ok F) (hg : g ≠ [])
    (hres : crcFold fcb 0#16 g = 0#16) : decodeFrame fcb (f ++ g) = .error .badLength := by
  obtain ⟨hmin, -, hlen, -⟩ := checks_of_decodeFrame hf
  have hpos : 0 < g.length := List.length_pos_of_ne_nil hg
  refine (decodeFrame_of_residue_zero ?_ ?_).1 ?_
  · rw [List.length_append]; omega
  · rw [crc16_append, crc16_of_decodeFrame hf, hres]
  · rw [List.getD_append _ _ _ _ (by omega), hlen, List.length_append]; omega

/-- Zero bytes before a sequence do not change its checksum, as the accumulator starts at zero. -/
theorem crc16_zeroBytes_append (k : Nat) (f : List Byte) :
    crc16 fcb (List.replicate k 0#8 ++ f) = crc16 fcb f := by
  rw [crc16_append]
  exact congrArg (fun c => crcFold fcb c f) (crcFold_zeroBytes fcb k)

end Machine

/-- Settles O46: the commands by `decodeThen_withHeader`, a frame with any header by `decodeFrame_buildFrame`, damage to the
header by `decodeFrame_set`. -/
theorem decodeIgnoresSyncAndAddressRegisters : Obligations.DecodeIgnoresSyncAndAddressRegisters := by
  refine ⟨fun s x y i hi => ?registers, fun x y data hpos hmax => ?header, fun f F k x hf hk hx => ?damage⟩
  case registers =>
    rcases hi with rfl | rfl
    · exact decodeThen_withHeader (finish := finishDecode) (fun _ _ => rfl) s
    · exact decodeThen_withHeader (finishValidate_withHeader x y) s
  case header =>
    exact ⟨_, decodeFrame_buildFrame fcb x y data (by rw [fcb_minFrame]; omega) hmax, rfl, rfl, rfl⟩
  case damage =>
    obtain ⟨hmin, -⟩ := checks_of_decodeFrame hf
    exact decodeFrame_set hf (by omega) hx

/-- Settles O47: two frames, and a frame and 0x00, by `decodeFrame_append`; zero bytes and a frame by
`decodeFrame_of_residue_zero`. -/
theorem misdelimitedBuffersMeetTheLengthCheck : Obligations.MisdelimitedBuffersMeetTheLengthCheck := by
  intro f g F G hf hg
  obtain ⟨hf6, -⟩ := checks_of_decodeFrame hf
  obtain ⟨hg6, -⟩ := checks_of_decodeFrame hg
  refine ⟨decodeFrame_append hf ?notEmpty (crc16_of_decodeFrame hg),
    decodeFrame_append hf (List.cons_ne_nil _ _) (crcFold_zeroBytes fcb 1), fun k hk B hB => ?leading⟩
  case notEmpty => exact List.ne_nil_of_length_pos (by omega)
  case leading =>
    have hlen : 6 ≤ B.length := by
      rw [hB, List.length_append]; omega
    have hcrc : crc16 fcb B = 0#16 := by rw [hB, crc16_zeroBytes_append, crc16_of_decodeFrame hf]
    obtain ⟨hne, heq⟩ := decodeFrame_of_residue_zero hlen hcrc
    exact ⟨hne, fun h => ⟨_, heq h⟩⟩

/-- Settles O49: the function `decode` rejects the damaged frame (`decodeFrame_set`), and both commands answer its error
alike. -/
theorem anySingleByteDamageGivesBadChecksum : Obligations.AnySingleByteDamageGivesBadChecksum := by
  intro x y op params f k b s hf hk hb hlen hB
  obtain ⟨-, -, -, -, F, hd⟩ := wellFormed_of_encodeFrame hf
  obtain ⟨t, hdecode, hvalidate, herr, ht⟩ :=
    exec_of_decodeFrame_error (List.length_set.trans hlen.symm) hB (decodeFrame_set hd hk hb)
  exact ⟨t, hdecode, hvalidate, herr, fValid_of_withdrawn ht⟩

namespace Machine

/-! LOOPBACK (30_encoding.md R74): the host's copy of the encoded frame to `RXBUF`. -/

/-- One turn of the copy: a written byte of `TXBUF` goes to the same index of `RXBUF`, which withdraws the decode
result. -/
theorem copyBack_succ {s : State} {i : Nat} {b : Byte} (hi : i < 256) (hb : s.txbuf.read i = some b) (k : Nat) :
    copyBack i (k + 1) s =
      copyBack (i + 1) k (noReply (invalidateFrame { s with rxbuf := s.rxbuf.write i b })) := by
  have hidx : (BitVec.ofNat 8 i).toNat = i := by rw [BitVec.toNat_ofNat, Nat.mod_eq_of_lt hi]
  have hread : memRead .txbuf (BitVec.ofNat 8 i).toNat s = some b := by rw [hidx]; exact hb
  have hwrite : exec (.wrb .rxbuf (BitVec.ofNat 8 i) (BitVec.ofNat 8 (replyNumber (replyByte b s)))) (replyByte b s) =
      .next (noReply (invalidateFrame { s with rxbuf := s.rxbuf.write i b })) := by
    show Host.Outcome.next (noReply (memWrite .rxbuf _ (BitVec.ofNat 8 b.toNat) (replyByte b s))) = _
    rw [memWrite, hidx, BitVec.ofNat_toNat, BitVec.setWidth_eq]
    rfl
  rw [copyBack, exec_rdb_written hread, andThen, hwrite, andThen]

/-- The copy of the bytes from index `i` on and the write of their number leave the bytes in `RXBUF` and what that last
write leaves. -/
theorem copyBack_then_rxLen (bytes : List Byte) (d : Half) {i : Nat} {s : State} (hfit : i + bytes.length ≤ 256)
    (hB : ∀ j (h : j < bytes.length), s.txbuf.read (i + j) = some bytes[j]) :
    andThen (copyBack i bytes.length s) (exec (.wr .rxLen d)) =
      .next (noReply (invalidateFrame { s with rxbuf := s.rxbuf.writeBytes i bytes, rxLen := lowByte d })) := by
  induction bytes generalizing i s with
  | nil => rfl
  | cons b bytes ih =>
    rw [List.length_cons] at hfit
    have hfirst : s.txbuf.read i = some b := hB 0 (Nat.zero_lt_succ _)
    rw [List.length_cons, copyBack_succ (by omega) hfirst]
    refine (ih (by omega) fun j hj => ?_).trans rfl
    have hnext := hB (j + 1) (Nat.succ_lt_succ hj)
    rwa [show i + (j + 1) = i + 1 + j by omega] at hnext

/-- LOOPBACK of the frame in `TXBUF` leaves a copy of it in `RXBUF` and its length in `RXLEN`. -/
theorem loopback_next {s : State} {f : List Byte} (hl : f.length = s.txLen.toNat) (hB : Holds s.txbuf f) :
    ∃ u, loopback s = .next u ∧ u.rxLen = s.txLen ∧ Holds u.rxbuf f := by
  have hlt : s.txLen.toNat < 256 := s.txLen.isLt
  have hn : replyNumber (replyReg (s.txLen.setWidth 16) s) = f.length := by
    show (s.txLen.setWidth 16).toNat = _
    rw [BitVec.toNat_setWidth, Nat.mod_eq_of_lt (by omega), hl]
  have hloop : loopback s = andThen (copyBack 0 f.length (replyReg (s.txLen.setWidth 16) s))
      (exec (.wr .rxLen (BitVec.ofNat 16 f.length))) := by
    rw [← hn]; rfl
  refine ⟨_, hloop.trans (copyBack_then_rxLen f _ (by omega) fun j hj => ?written), ?rxLen,
    Memory.holds_writeBytes s.rxbuf f⟩
  case written => rw [Nat.zero_add]; exact hB j hj
  case rxLen =>
    show lowByte (BitVec.ofNat 16 f.length) = s.txLen
    rw [lowByte_ofNat, hl, BitVec.ofNat_toNat, BitVec.setWidth_eq]

end Machine

/-- Settles O48: what `ENCODE` leaves is O57's at the block's own parameters, LOOPBACK copies the frame by
`loopback_next`, and O57's `DECODE` of a copy of the frame applies to the state it leaves. -/
theorem encodeLoopbackDecodeRoundTrip : Obligations.EncodeLoopbackDecodeRoundTrip := by
  refine ⟨fun s params hl hmax hB => ?block, fun x y op params hmax => ?functions⟩
  case block =>
    obtain ⟨t, f, hencode, -, hf, htx, hcopy⟩ := everyParameterSetRoundTrips fcb s params rfl hl hmax hB
    obtain ⟨u, hloop, hrx, hrxbuf⟩ := loopback_next hf htx
    obtain ⟨v, hv, herr, hfv, hsync, haddr, hpay, hop, hpar⟩ := hcopy u hrx hrxbuf
    rw [execWith_fcb] at hencode hv
    rcases exec_decode_next hv with ⟨e, -, -, hw⟩ | ⟨F, hF, -, hvrx⟩
    · rw [fValid_of_withdrawn hw] at hfv
      cases hfv
    · have hvlen : v.rxLen = t.txLen := hvrx.trans hrx
      exact ⟨t, u, v, hencode, hloop, hv, herr, hfv, hsync, haddr, (hF.fLen.trans hF.rxLen.symm).trans hvlen,
        hl ▸ hpay, hvlen, hop, hl ▸ hpar⟩
  case functions =>
    exact ⟨_, _, encodeFrame_of_le fcb x y op hmax,
      decodeFrame_buildFrame fcb x y (op :: params) (by simp) (by rw [maxData_eq, List.length_cons]; omega), rfl, rfl, rfl⟩

end Sys2Proof
end

section
/-! PROOFS. The host transactions of 43_host_access.md: the words that the spec writes as a disjunction of fields, what RD, WR, RDB and WRB do to each register and buffer, and the dispatch of commands, which never reads `ERR`. -/

namespace Sys2Proof

open Sys2Proof.Machine

/-! The words of 43_host_access.md, as the words with their fields (30_encoding.md R66). -/

/-- A word is its kind and space, its address field shifted into place and its data, joined by `or`: no bit belongs to two
of them. -/
theorem or_fields_eq_mkWord (k sp : BitVec 2) (a : Byte) (d : Half) :
    ((k ++ sp ++ 0#28 : Word) ||| a.setWidth 32 <<< 16 ||| d.setWidth 32) = mkWord k sp a d := by
  refine BitVec.eq_of_getLsbD_eq fun i hi => ?_
  have hk : (k ++ sp ++ 0#28 : Word).getLsbD i =
      if i < 28 then false else if i < 30 then sp.getLsbD (i - 28) else k.getLsbD (i - 30) := by
    simp only [BitVec.getLsbD_append, BitVec.getLsbD_zero, show i - 28 < 2 ↔ i < 30 by omega,
      show i - 28 - 2 = i - 30 by omega]
  have ha : 24 ≤ i → a.getLsbD (i - 16) = false := fun h => BitVec.getLsbD_of_ge a _ (by omega)
  have hd : 16 ≤ i → d.getLsbD i = false := fun h => BitVec.getLsbD_of_ge d _ h
  simp only [BitVec.getLsbD_or, BitVec.getLsbD_shiftLeft, BitVec.getLsbD_setWidth, getLsbD_mkWord, hk, hi,
    show i - 16 < 32 by omega, decide_true, Bool.true_and]
  grind

/-- A word without data. -/
theorem or_address_eq_mkWord (k sp : BitVec 2) (a : Byte) :
    ((k ++ sp ++ 0#28 : Word) ||| a.setWidth 32 <<< 16) = mkWord k sp a 0#16 := by
  rw [← or_fields_eq_mkWord]
  exact BitVec.or_zero.symm

/-- A word whose data is one byte. -/
theorem or_byte_eq_mkWord (k sp : BitVec 2) (a b : Byte) :
    ((k ++ sp ++ 0#28 : Word) ||| a.setWidth 32 <<< 16 ||| b.setWidth 32) = mkWord k sp a (b.setWidth 16) := by
  have hwiden : (b.setWidth 16).setWidth 32 = b.setWidth 32 := BitVec.setWidth_setWidth (by decide)
  rw [← or_fields_eq_mkWord, hwiden]

theorem highByte_eq_zero_iff (d : Half) : highByte d = 0#8 ↔ d.toNat < 256 := by
  rw [← BitVec.toNat_inj, highByte, BitVec.extractLsb'_toNat, BitVec.toNat_ofNat, Nat.shiftRight_eq_div_pow]
  omega

/-! What those words decode to. -/

theorem decode_rdWord (r : Reg) :
    decode (.word ((0#2 ++ 0#2 ++ 0#28) ||| (regNum r).setWidth 32 <<< 16)) = .ok (.rd r) := by
  rw [or_address_eq_mkWord]
  exact decodeWord_rd r

theorem decode_wrWord {r : Reg} (hr : r ≠ .cmd) {d : Half} (hd : regWide r = true ∨ highByte d = 0#8) :
    decode (.word ((1#2 ++ 0#2 ++ 0#28) ||| (regNum r).setWidth 32 <<< 16 ||| d.setWidth 32)) = .ok (.wr r d) := by
  rw [or_fields_eq_mkWord]
  exact decodeWord_wr hr hd

theorem decode_rdbWord (sp : Space) (i : Byte) :
    decode (.word ((2#2 ++ spaceNum sp ++ 0#28) ||| i.setWidth 32 <<< 16)) = .ok (.rdb sp i) := by
  rw [or_address_eq_mkWord]
  exact decodeWord_rdb sp i

theorem decode_wrbWord (sp : Space) (i b : Byte) :
    decode (.word ((3#2 ++ spaceNum sp ++ 0#28) ||| i.setWidth 32 <<< 16 ||| b.setWidth 32)) = .ok (.wrb sp i b) := by
  rw [or_byte_eq_mkWord]
  exact decodeWord_wrb sp i b

/-- `RD` of a register number that names no register is malformed (30_encoding.md R68, R71). -/
theorem decode_rdWord_reserved {a : Byte} (ha : 0x0F ≤ a.toNat) :
    ∃ why, decode (.word ((0#2 ++ 0#2 ++ 0#28) ||| a.setWidth 32 <<< 16)) = .error why := by
  rw [or_address_eq_mkWord]
  exact (decodeWord_error_iff _).2 (by simp [MalformedWord, ha])

/-- A word of `RDB` or `WRB` with `SPACE` 11 is malformed (30_encoding.md R68). -/
theorem decode_reservedSpace {k : BitVec 2} (hk : k = 2#2 ∨ k = 3#2) (a : Byte) (d : Half) :
    ∃ why, decode (.word (mkWord k 3#2 a d)) = .error why :=
  (decodeWord_error_iff _).2 (by simp [MalformedWord, hk])

theorem decode_rdbWord_reserved (i : Byte) :
    ∃ why, decode (.word ((2#2 ++ 3#2 ++ 0#28) ||| i.setWidth 32 <<< 16)) = .error why := by
  rw [or_address_eq_mkWord]
  exact decode_reservedSpace (.inl rfl) i _

theorem decode_wrbWord_reserved (i b : Byte) :
    ∃ why, decode (.word ((3#2 ++ 3#2 ++ 0#28) ||| i.setWidth 32 <<< 16 ||| b.setWidth 32)) = .error why := by
  rw [or_byte_eq_mkWord]
  exact decode_reservedSpace (.inr rfl) i _

namespace Machine

/-! Reads (43_host_access.md R130). -/

theorem exec_rd (r : Reg) (s : State) : exec (.rd r) s = .next { s with reply := .reg (regRead r s) } := rfl

/-- A register of 8 bits is returned in bits 7:0, with bits 15:8 zero. -/
theorem exec_rd_of_byte {r : Reg} {s : State} {v : Byte} (h : regRead r s = v.setWidth 16) :
    exec (.rd r) s = .next { s with reply := .reg (0x00#8 ++ v) } := by
  rw [exec_rd, h, setWidth_byte]

/-! Dispatch (43_host_access.md R134). Every exit of a command overwrites `ERR`, and none of its tests reads it. -/

/-- The state with another value in `STATUS.ERR`. -/
def withErr (e : BitVec 4) (s : State) : State := { s with err := e }

theorem finishDecode_withErr (e : BitVec 4) (B : List Byte) (s : State) :
    finishDecode B (withErr e s) = finishDecode B s := rfl

theorem finishValidate_withErr (e : BitVec 4) (B : List Byte) (s : State) :
    finishValidate B (withErr e s) = finishValidate B s := rfl

theorem decodeThen_withErr {e : BitVec 4} {finish : List Byte → State → State}
    (hfinish : ∀ B s, finish B (withErr e s) = finish B s) (s : State) :
    decodeThen fcb finish (withErr e s) = decodeThen fcb finish s := by
  rcases decodeThen_cases fcb finish s with
    ⟨h, o⟩ | ⟨h, f, hf, o⟩ | ⟨h, B, hl, hB, ⟨e', -, -, hd, o⟩ | ⟨F, hd, o⟩⟩ <;> rw [o]
  · exact decodeThen_short finish h
  · exact decodeThen_unwritten finish h hf
  · exact decodeThen_of_error finish h hl hB hd
  · have hok := decodeThen_of_ok (s := withErr e s) finish hl hB hd
    exact hok.trans (congrArg Host.Outcome.next (hfinish B (acceptFrame B F.crc16 (afterChecksum fcb B s))))

theorem exec_commandInstr_withErr (c : Command) (e : BitVec 4) (s : State) :
    exec (commandInstr c) (withErr e s) = exec (commandInstr c) s := by
  cases c with
  | crcClr => rfl
  | crcUpd => rfl
  | crcBuf => rfl
  | encode => rfl
  | decode => exact decodeThen_withErr (finishDecode_withErr e) s
  | validate => exact decodeThen_withErr (finishValidate_withErr e) s

theorem exec_wr_cmd_withErr (d : Half) (e : BitVec 4) (s : State) :
    exec (.wr .cmd d) (withErr e s) = exec (.wr .cmd d) s := by
  cases hc : commandOfCode (lowByte d) with
  | none => rw [exec_wr_cmd_of_none hc, exec_wr_cmd_of_none hc]; rfl
  | some c => rw [exec_wr_cmd_of_some hc, exec_wr_cmd_of_some hc, exec_commandInstr_withErr]

/-- A `WR` to `CMD` of the number of a command is that command (30_encoding.md R69). -/
theorem exec_wr_cmd_of_lowByte_eq {d : Half} {c : Command} (hd : lowByte d = commandCode c) (s : State) :
    exec (.wr .cmd d) s = exec (commandInstr c) s :=
  exec_wr_cmd_of_some (by rw [hd, commandOfCode_commandCode]) s

/-- A `WR` to `CMD` does what the instruction that its code decodes to does (43_host_access.md R131). -/
theorem exec_wr_cmd (d : Half) (s : State) : exec (.wr .cmd d) s = exec (decodeCommand (lowByte d)) s := by
  cases hc : commandOfCode (lowByte d) with
  | none => rw [exec_wr_cmd_of_none hc, decodeCommand_of_none hc]; rfl
  | some c => rw [exec_wr_cmd_of_some hc, decodeCommand, hc]; cases c <;> rfl

end Machine

/-- Settles O11: `CMD` by `exec_wr_cmd`, the read-only registers by `exec_wr_ignored`, the rest by the definition of the
write; the word by `decode_wrWord`. -/
theorem wrWritesTheRegister : Obligations.WrWritesTheRegister := by
  refine ⟨fun d s => ⟨exec_wr_cmd d s, rfl, rfl, rfl, rfl, rfl, rfl, fun r hr => exec_wr_ignored hr d s⟩,
    fun r d hr hd => ?word⟩
  case word =>
    have hfit : regWide r = true ∨ highByte d = 0#8 := by
      rcases hd with rfl | rfl | hlt
      · exact .inl rfl
      · exact .inl rfl
      · exact .inr ((highByte_eq_zero_iff d).2 hlt)
    exact decode_wrWord hr hfit

/-- Settles O12: the six codes by `exec_wr_cmd_of_lowByte_eq`, the others by `exec_wr_cmd_of_none`, and the independence
of `ERR` by `exec_wr_cmd_withErr`. -/
theorem wrCmdDispatchesTheCommand : Obligations.WrCmdDispatchesTheCommand := by
  intro d s
  refine ⟨fun h => ?crcClr, fun h => ?crcUpd, fun h => ?crcBuf, fun h => ?encode, fun h => ?decode, fun h => ?validate,
    fun h => ?reserved, fun e => exec_wr_cmd_withErr d e s⟩
  case crcClr => exact exec_wr_cmd_of_lowByte_eq (c := .crcClr) h s
  case crcUpd => exact exec_wr_cmd_of_lowByte_eq (c := .crcUpd) h s
  case crcBuf => exact exec_wr_cmd_of_lowByte_eq (c := .crcBuf) h s
  case encode => exact exec_wr_cmd_of_lowByte_eq (c := .encode) h s
  case decode => exact exec_wr_cmd_of_lowByte_eq (c := .decode) h s
  case validate => exact exec_wr_cmd_of_lowByte_eq (c := .validate) h s
  case reserved => exact exec_wr_cmd_of_none ((commandOfCode_eq_none_iff (lowByte d)).2 h) s

/-- Settles O15: the bytes of the written buffer by `Memory.read_write`, the words by `decode_wrbWord`. -/
theorem wrbWritesTheByte : Obligations.WrbWritesTheByte := by
  refine ⟨fun i b s => ⟨⟨_, rfl, fun j => ?pbuf⟩, rfl, ⟨_, rfl, fun j => ?rxbuf⟩⟩, fun i b => ?words⟩
  case pbuf => exact s.pbuf.read_write i.toNat j b
  case rxbuf => exact s.rxbuf.read_write i.toNat j b
  case words =>
    exact ⟨decode_wrbWord .pbuf i b, decode_wrbWord .txbuf i b, decode_wrbWord .rxbuf i b,
      decode_wrbWord_reserved i b⟩

/-- Settles O10: the 8-bit registers by `exec_rd_of_byte`, and the words by `decode_rdWord`. -/
theorem rdReturnsTheRegister : Obligations.RdReturnsTheRegister := by
  refine ⟨fun s => ⟨exec_rd .cmd s, exec_rd_of_byte rfl, exec_rd_of_byte rfl, exec_rd .crc s, exec_rd_of_byte rfl,
    exec_rd_of_byte rfl, exec_rd_of_byte rfl, exec_rd_of_byte rfl, exec_rd_of_byte rfl, exec_rd_of_byte rfl,
    exec_rd_of_byte rfl, exec_rd_of_byte rfl, exec_rd_of_byte rfl, exec_rd .fCrc s, exec_rd_of_byte rfl⟩,
    decode_rdWord, fun a ha => ?reserved⟩
  case reserved =>
    have hword := decode_rdWord_reserved ha
    rwa [show (0#2 ++ 0#2 ++ 0#28 : Word) = 0#32 from rfl, BitVec.zero_or] at hword

/-- Settles O14: the byte by `exec_rdb_written`, the words by `decode_rdbWord`. -/
theorem rdbReturnsTheByte : Obligations.RdbReturnsTheByte := by
  refine ⟨fun sp i b s h => ?byte, fun i => ?words⟩
  case byte =>
    refine exec_rdb_written (b := b) ?_
    cases sp <;> exact h
  case words =>
    exact ⟨decode_rdbWord .pbuf i, decode_rdbWord .txbuf i, decode_rdbWord .rxbuf i,
      decode_rdbWord_reserved i⟩

end Sys2Proof
end

section
/-! PROOFS. The errors of 60_exceptions.md: what a command that ends in an error leaves of the buffers, of the encoded frame and of the decode result, and a reserved code, which sets `ERR` alone. -/

namespace Sys2Proof

open Sys2Proof.Machine

namespace Machine

section Errors

variable {s t : State} {i : Instr} {c : Option Command}

/-- What an instruction that dispatches `c` has done is what `c` does (43_host_access.md R134). -/
theorem Starts.commandEffect (hi : Starts i c) (h : exec i s = .next t) : CommandEffect s c t := by
  cases hi with
  | wrCmd d => exact runCommand_effect h
  | command c =>
    rw [← exec_issueCommand] at h
    have heffect : CommandEffect s (commandOfCode (lowByte ((commandCode c).setWidth 16))) t := runCommand_effect h
    rwa [lowByte_setWidth, commandOfCode_commandCode] at heffect
  | reserved v => cases h; exact .illegal

/-- Only a successful `ENCODE` writes a buffer: it tests its one error condition before its first write (R149). -/
theorem CommandEffect.keepsBuffers_of_err (h : CommandEffect s c t) (herr : t.err ≠ 0#4) :
    t.pbuf = s.pbuf ∧ t.txbuf = s.txbuf ∧ t.rxbuf = s.rxbuf := by
  cases h with
  | encodeOk params => exact absurd (encodeOk_err fcb s params) herr
  | _ => exact ⟨rfl, rfl, rfl⟩

/-- A failing `ENCODE` leaves no valid encoded frame, and `CRC` as it was (41_encode.md R101). -/
theorem exec_encode_of_err (h : exec .encode s = .next t) (herr : t.err ≠ 0#4) :
    t.txValid = false ∧ t.txLen = 0#8 ∧ t.crc = s.crc := by
  rcases exec_encode_next h with ⟨-, rfl⟩ | ⟨-, params, -, -, rfl⟩
  · exact ⟨rfl, rfl, rfl⟩
  · exact absurd (encodeOk_err fcb s params) herr

/-- A failing `DECODE` withdraws the decode result (42_decode_validate.md R111). -/
theorem exec_decode_withdrawn_of_err (h : exec .decode s = .next t) (herr : t.err ≠ 0#4) : invalidateFrame t = t := by
  rcases exec_decode_next h with ⟨e, -, -, hw⟩ | ⟨F, -, h0, -⟩
  · exact hw
  · exact absurd h0 herr

/-- A `VALIDATE` that fails other than by a NAK withdraws the decode result (42_decode_validate.md R114, R115). -/
theorem exec_validate_withdrawn_of_err (h : exec .validate s = .next t) (herr : t.err ≠ 0#4) (hnak : t.err ≠ 4#4) :
    invalidateFrame t = t := by
  rcases exec_validate_next h with ⟨e, -, -, hw⟩ | ⟨F, d, -, rfl, -⟩
  · exact hw
  · rcases withClass_err (classify F.data) d with ⟨-, h4⟩ | ⟨-, h0⟩
    · exact absurd h4 hnak
    · exact absurd h0 herr

/-- The six commands and the reserved codes are what dispatches a command without being a `WR`. -/
theorem exists_starts
    (hi : i ∈ [Instr.crcClr, .crcUpd, .crcBuf, .encode, .decode, .validate] ∨ ∃ v, i = .reservedCommand v) :
    ∃ c, Starts i c := by
  rcases hi with hi | ⟨v, rfl⟩
  · simp only [List.mem_cons, List.not_mem_nil, or_false] at hi
    rcases hi with rfl | rfl | rfl | rfl | rfl | rfl
    · exact ⟨_, .command .crcClr⟩
    · exact ⟨_, .command .crcUpd⟩
    · exact ⟨_, .command .crcBuf⟩
    · exact ⟨_, .command .encode⟩
    · exact ⟨_, .command .decode⟩
    · exact ⟨_, .command .validate⟩
  · exact ⟨_, .reserved v⟩

end Errors

end Machine

/-- Settles O45: the buffers by `CommandEffect.keepsBuffers_of_err` over every exit of a command, the failing `ENCODE`,
`DECODE` and `VALIDATE` by their own error exits. -/
theorem errorsArePrecise : Obligations.ErrorsArePrecise := by
  intro i s t hi h herr
  obtain ⟨c, hc⟩ := exists_starts hi
  obtain ⟨hpbuf, htxbuf, hrxbuf⟩ := (hc.commandEffect h).keepsBuffers_of_err herr
  refine ⟨hpbuf, htxbuf, hrxbuf, ?encode, ?withdrawn⟩
  case encode => rintro rfl; exact exec_encode_of_err h herr
  case withdrawn =>
    rintro (rfl | ⟨rfl, hnak⟩)
    · exact exec_decode_withdrawn_of_err h herr
    · exact exec_validate_withdrawn_of_err h herr hnak

/-- The word of a command code that names no command is the reserved command of that code (30_encoding.md R70). -/
theorem decode_reservedCommandWord {v : Byte} (hv : commandOfCode v = none) :
    decode (.word ((1#2 ++ 0#2 ++ 0#28) ||| (regNum .cmd).setWidth 32 <<< 16 ||| v.setWidth 32)) =
      .ok (.reservedCommand v) := by
  rw [or_byte_eq_mkWord]
  exact decode_of_encode_eq (beq_iff_eq.2 hv) rfl

/-- Settles O13, as a reserved code names no command: the `WR` by `exec_wr_cmd_of_none`, the word by
`decode_reservedCommandWord`. -/
theorem illegalCommandSetsOnlyErr : Obligations.IllegalCommandSetsOnlyErr := by
  intro v s h
  have hv : commandOfCode v = none := (commandOfCode_eq_none_iff v).2 h
  have hlow : commandOfCode (lowByte (v.setWidth 16)) = none := by rw [lowByte_setWidth, hv]
  exact ⟨rfl, exec_wr_cmd_of_none hlow s, decode_reservedCommandWord hv⟩

end Sys2Proof
end

section
/-! PROOFS. A step of the block: the instruction it runs on the input it takes (00_scope.md R4), and nothing where the host has issued nothing (60_exceptions.md R152). -/

namespace Sys2Proof

open Sys2Proof.Machine

/-- The bits of a table row name an instruction exactly when the decoder accepts the input they number. -/
theorem decodeTableWord_eq_some_iff {nbits w : Nat} {i : Instr} :
    decodeTableWord nbits w = some i ↔ Sys2Proof.decode (inputOfBits nbits w) = .ok i := by
  rw [decodeTableWord]
  cases Sys2Proof.decode (inputOfBits nbits w) <;> simp [Except.toOption]

namespace Machine

section Steps

variable {s : State} {inp : Input} {i : Instr}

theorem step_of_inputs_nil (h : s.inputs = []) : step s = .next s := by
  rcases step_cases s with ⟨-, e⟩ | ⟨_, _, _, hin, -, -⟩ | ⟨_, _, _, hin, -, -⟩
  · exact e
  · simp [h] at hin
  · simp [h] at hin

theorem step_of_decode_ok {rest : List Input} (h : s.inputs = inp :: rest) (hd : Sys2Proof.decode inp = .ok i) :
    step s = exec i { s with inputs := rest } := by
  rcases step_cases s with ⟨hnil, -⟩ | ⟨_, _, _, hin, herr, -⟩ | ⟨_, _, _, hin, hok, e⟩
  · simp [h] at hnil
  · obtain ⟨rfl, -⟩ := List.cons.inj (h.symm.trans hin)
    simp [hd] at herr
  · obtain ⟨rfl, rfl⟩ := List.cons.inj (h.symm.trans hin)
    obtain rfl := Except.ok.inj (hd.symm.trans hok)
    exact e

/-- The step that follows the issue of one input gives the list of inputs back as it was before the issue. -/
theorem step_placeInput_of_decode_ok (s : State) (hd : Sys2Proof.decode inp = .ok i) :
    step (placeInput inp s) = exec i s :=
  step_of_decode_ok (placeInput_inputs inp s) hd

end Steps

end Machine

/-- Settles O5: the first clause by `step_of_decode_ok`; the second is the first for the input `withFetchWord` places,
which the step takes away again. -/
theorem stepRunsTheDecodedInstruction : Obligations.StepRunsTheDecodedInstruction :=
  ⟨fun _ _ _ _ h hd => step_of_decode_ok h hd,
    fun s _ _ _ h => step_placeInput_of_decode_ok s (decodeTableWord_eq_some_iff.1 h)⟩

/-- Settles O6: of the three cases of a step only the one without an input applies. -/
theorem stepWithoutInputChangesNothing : Obligations.StepWithoutInputChangesNothing :=
  fun _ => step_of_inputs_nil

end Sys2Proof
end
